-- ==== Sys2Proof/Word.lean ====
section
/-! DEFINITION. The words of the block: bytes (rule R9) and the 16-bit values of rules R21 to R23. -/

namespace Sys2Proof

/-- A byte is 8 bits (rule R9). -/
abbrev Byte := BitVec 8

/-- The width of the Integrity Accumulator and of the accelerometer readings (rules R21 to R23). -/
abbrev Half := BitVec 16

/-- A Command: 13 opaque bytes, byte `i` being payload byte `i` of its STEPS request (rule R24). -/
abbrev Command := Vector Byte 13

/-- A frame: the 19 bytes sent to the FPGA (rule R100). -/
abbrev Frame := Vector Byte 19

end Sys2Proof
end

