-- ==== Sys2Proof/Config.lean ====
section
/-! DEFINITION. What the spec leaves OPEN without a default (rule R8), and the free values: opaque
constants, so that whatever is proved holds for every value of them. The open parameters for which
rule R8 recommends a default are the record `OpenParams` of Sys2Proof/Machine/Params.lean. -/

namespace Sys2Proof

/-- The block's output pins (rule R34). -/
inductive OutputPin where
  | accelInit
  | fpgaEnable
  | csRear
  | csFront
  deriving DecidableEq, Repr

/-- The block's pins: its outputs and its one input (rules R34, R35). -/
inductive Pin where
  | output (p : OutputPin)
  | fpgaReady
  deriving DecidableEq, Repr

namespace Config

/-- `FRAME_HEAD`, the frame's first byte: OPEN (rule R8, decision D10). -/
opaque frameHead : Byte

/-- `FRAME_TRAIL`, the frame's five last bytes: OPEN (rule R8, decision D10). -/
opaque frameTrail : Vector Byte 5

/-- `FILLER`, the thirteen bytes sent when no Command is taken: OPEN (rule R8, decision D10). -/
opaque filler : Command

/-- `DUMMY_BYTE`, written to clock in each response byte of a sensor: OPEN (rule R8, decision D15). -/
opaque dummyByte : Byte

/-- `INTERBYTE_LIMIT`, in empty polls: OPEN (rule R8, decision D8). -/
opaque interbyteLimit : Nat

/-- `TRANSACTION_LIMIT`, in empty polls: OPEN (rule R8, decision D8). -/
opaque transactionLimit : Nat

/-- `T_PRE_SAMPLE`: OPEN, and no rule depends on it (rule R8, decision D16). -/
opaque tPreSample : Nat

/-- `T_INIT_HOLD`: OPEN, and no rule depends on it (rule R8, decision D16). -/
opaque tInitHold : Nat

/-- `T_MASTER_SETTLE`: OPEN, and no rule depends on it (rule R8, decision D16). -/
opaque tMasterSettle : Nat

/-- `T_POST_INIT`: OPEN, and no rule depends on it (rule R8, decision D16). -/
opaque tPostInit : Nat

/-- `PIN_POLARITY`: whether `asserted` is electrically high, per pin; OPEN, and the spec uses only
the abstract levels (rule R8, decision D17). -/
opaque assertedIsHigh : Pin → Bool

/-- The free bytes `draw(byte)` of rule R10 that no list of the state supplies: the `k`-th one taken. -/
opaque freeByte : Nat → Byte

end Config
end Sys2Proof
end

