-- ==== Sys2Proof/Machine/Params.lean ====
section
/-! DEFINITION. The open parameters for which rule R8 recommends a default, as one record that the machine carries in
its state and that no step changes, with the recommended defaults; and the fixed parameters of rule R7 (assumption log,
entry 9). -/

namespace Sys2Proof.Machine

/-- The two spans of the STEPS request checksum (rule R93). -/
inductive CrcSpan where
  | opcodeAndPayload
  | payloadOnly
  deriving DecidableEq, Repr

/-- The abstract level of a pin (rule R34). -/
inductive Level where
  | asserted
  | deasserted
  deriving DecidableEq, Repr

/-- The open parameters with a recommended default (rule R8): a block's own values of them. -/
structure OpenParams where
  /-- `READY_MAGIC` (decision D5). -/
  readyMagic : Byte
  /-- `STEPS_CRC_SPAN` (decision D6). -/
  stepsCrcSpan : CrcSpan
  /-- `DEFER_GATE_EFFECTIVE` (decision D20, conflict C2). -/
  deferGateEffective : Bool
  /-- `DEFER_RESET` (decision D21). -/
  deferReset : Bool
  /-- `ACCEL_RESET`, for both readings (decision D22). -/
  accelReset : Half
  deriving DecidableEq, Repr

/-- The defaults that rule R8 recommends. UNVERIFIED: the source confirms none of them. Unsafe for a claim that rests on
one of these values. -/
def OpenParams.recommended : OpenParams where
  readyMagic := 0x40
  stepsCrcSpan := .opcodeAndPayload
  deferGateEffective := true
  deferReset := true
  accelReset := 0x0000

namespace Params

/-- `QUEUE_CAPACITY` (rule R7). -/
def queueCapacity : Nat := 200

/-- `CMD_SIZE` (rule R7). -/
def cmdSize : Nat := 13

/-- `CRC_INIT` (rule R7). -/
def crcInit : Half := 0xFFFF

/-- `CRC_POLY` (rule R7). -/
def crcPoly : Half := 0x1021

/-- `STATUS_ACCEPTED` (rule R7). -/
def statusAccepted : Byte := 0x01

/-- `STATUS_FULL` (rule R7). -/
def statusFull : Byte := 0x00

/-- `SENTINEL` (rule R7). -/
def sentinel : Byte := 0x5A

/-- `SENTINEL_CLEAR` (rule R7). -/
def sentinelClear : Byte := 0x00

/-- `N_SAMPLES` (rule R7). -/
def nSamples : Nat := 17

/-- `SAMPLE_SHIFT` (rule R7). -/
def sampleShift : Nat := 5

/-- `ACCEL_READ_CMD` (rule R7). -/
def accelReadCmd : Byte := 0x10

end Params
end Sys2Proof.Machine
end

