-- ==== Sys2Proof/Machine/State.lean ====
section
/-! DEFINITION. The state of the block (spec/10_state.md, spec/20_memory.md), the reasons a step of the model
can stop, and the state after reset (rule R46). State is plain data; the environment's future moves are part of
it (assumption log, entries 1 and 5). -/

namespace Sys2Proof.Machine

/-- The sequencer's control state, the block's program counter (rule R30). -/
inductive Phase where
  | bIdlePins
  | bCheckReady
  | bInit
  | bBaseline
  | bFinish
  | nWait
  /-- `N_SEND(i)`: frame byte `i` is being sent. -/
  | nSend (i : Fin 19)
  | nPoll
  | eEnter
  | pSampleRear
  | pPollA
  | pSampleFront
  | pPollB
  deriving DecidableEq, Repr

/-- The role of the synchronous bus (rule R33). -/
inductive BusRole where
  | unconfigured
  | master
  | slave
  deriving DecidableEq, Repr

/-- The two sensors (rule R220). -/
inductive Channel where
  | rear
  | front
  deriving DecidableEq, Repr

/-- A move of the agents HOST and FPGA (rules R5, R331). The sensors' bytes are in lists of their own. -/
inductive EnvMove where
  /-- HOST appends one byte to RX. -/
  | hostByte (b : Byte)
  /-- FPGA writes a byte into BUSDATA (only while `busRole = SLAVE`). -/
  | fpgaWrite (b : Byte)
  /-- FPGA clocks the slave transfer in progress and sends the byte `b` back (rule R37). -/
  | fpgaClock (b : Byte)
  /-- FPGA drives `PIN_FPGA_READY` (rule R35). -/
  | fpgaReady (l : Level)
  deriving DecidableEq, Repr

/-- The queue storage as (address, byte) pairs in canonical form: addresses strictly rising (rule R60). An
address that is not listed has never been written; a byte read there is a free value (U2, D33). -/
abbrev Memory := List Host.Cell

/-- Everything the spec gives the block, and the environment's future moves. -/
structure State where
  /-- `phase` (rule R30). -/
  phase : Phase
  /-- `crc`, the Integrity Accumulator (rule R21). -/
  crc : Half
  /-- `accelRear` (rule R22). -/
  accelRear : Half
  /-- `accelFront` (rule R23). -/
  accelFront : Half
  /-- `head`, the slot of the oldest queued Command (rule R25). -/
  head : Fin 200
  /-- `tail`, the slot the next appended Command will occupy (rule R25). -/
  tail : Fin 200
  /-- `count`, the queue's fill level (rule R25). -/
  count : Nat
  /-- QMEM (rule R60). -/
  qmem : Memory
  /-- `buf`, the dispatcher's scratch buffer: opcode, payload, received checksum (rule R26). -/
  buf : Vector Byte 16
  /-- `reportOnly`, the mode flag (rule R31). -/
  reportOnly : Bool
  /-- `defer`, the defer flag (rule R32). -/
  defer : Bool
  /-- `busRole` (rule R33). -/
  busRole : BusRole
  /-- `PIN_ACCEL_INIT` (rule R34). -/
  pinAccelInit : Level
  /-- `PIN_FPGA_ENABLE` (rule R34). -/
  pinFpgaEnable : Level
  /-- `PIN_CS_REAR` (rule R34). -/
  pinCsRear : Level
  /-- `PIN_CS_FRONT` (rule R34). -/
  pinCsFront : Level
  /-- The input `PIN_FPGA_READY`, driven by the FPGA (rule R35). -/
  pinFpgaReady : Level
  /-- `BUSDATA` (rule R36). -/
  busData : Byte
  /-- `XFER_DONE` (rule R37). -/
  xferDone : Bool
  /-- The slave-role `BusTransfer` in progress and the byte it sends, if there is one: what rule R37's
  `hold until XFER_DONE = 1` waits in. -/
  xfer : Option Byte
  /-- `interbyte` (rule R38). -/
  interbyte : Nat
  /-- `transaction` (rule R38). -/
  transaction : Nat
  /-- `frameBuf` (rule R39). -/
  frameBuf : Frame
  /-- `sum`, the sampler's accumulator (rule R40). -/
  sum : Half
  /-- `n`, the sampler's reading count (rule R40). -/
  n : Nat
  /-- `RX` (rule R41). -/
  rx : List Byte
  /-- `TX` (rule R42). -/
  tx : List Byte
  /-- `FPGA_OUT` (rule R43). -/
  fpgaOut : List Byte
  /-- `SENSOR_OUT[REAR]` (rule R43). -/
  sensorOutRear : List Byte
  /-- `SENSOR_OUT[FRONT]` (rule R43). -/
  sensorOutFront : List Byte
  /-- The model's own: the moves of HOST and FPGA to come, one list per turn (rule R68). -/
  env : List (List EnvMove)
  /-- The model's own: the bytes the rear sensor will answer, oldest first (rule R37). -/
  rearAnswers : List Byte
  /-- The model's own: the bytes the front sensor will answer, oldest first (rule R37). -/
  frontAnswers : List Byte
  /-- The model's own: how many free bytes have been drawn (rule R10, `draw`). -/
  draws : Nat
  /-- The block's values of the open parameters (rule R8): configuration, which no step changes. -/
  params : OpenParams
  deriving DecidableEq, Repr

/-- Why a step stops with a fault: there is no reason. The spec has no trap, no fatal path and no halt (rules R270, R282,
R332), and what it leaves unspecified is a free value or a refusal. -/
inductive Fault where
  deriving DecidableEq, Repr

/-- Why a step gives no meaning. -/
inductive Refusal where
  /-- An instruction without a meaning yet, by its mnemonic. No arm of this model answers it. Safe. -/
  | notModelled (mnemonic : String)
  /-- Raised by phases `B_BASELINE`, `P_SAMPLE_REAR` and `P_SAMPLE_FRONT` when `busRole` is not `MASTER`: U19
  says it cannot happen and that a model may refuse it. Safe: no state a run reaches raises it. -/
  | sampleOutsideMaster
  /-- Raised by phases `N_SEND(i)` when `busRole` is `UNCONFIGURED`: what the bus then does is excluded (rule
  R33). Safe: no state a run reaches raises it. -/
  | transferUnconfigured
  deriving DecidableEq, Repr

/-- The state after power-on of a block with the given open parameters (rules R8, R46). `phase`, `reportOnly`, `defer`,
the readings, the queue indices, `busRole` and the streams are the spec's; QMEM lists nothing; each other register has
the value that the assumption log names (entries 2 and 4), and the environment does nothing (entries 1 and 5). -/
def State.resetWith (params : OpenParams) : State where
  phase := .bIdlePins
  crc := 0x0000
  accelRear := params.accelReset
  accelFront := params.accelReset
  head := 0
  tail := 0
  count := 0
  qmem := []
  buf := Vector.replicate 16 0x00
  reportOnly := false
  defer := params.deferReset
  busRole := .unconfigured
  pinAccelInit := .deasserted
  pinFpgaEnable := .deasserted
  pinCsRear := .deasserted
  pinCsFront := .deasserted
  pinFpgaReady := .deasserted
  busData := 0x00
  xferDone := false
  xfer := none
  interbyte := 0
  transaction := 0
  frameBuf := Vector.replicate 19 0x00
  sum := 0x0000
  n := 0
  rx := []
  tx := []
  fpgaOut := []
  sensorOutRear := []
  sensorOutFront := []
  env := []
  rearAnswers := []
  frontAnswers := []
  draws := 0
  params := params

/-- The state after power-on of a block with the defaults that rule R8 recommends (rule R46). -/
def State.reset : State := State.resetWith .recommended

end Sys2Proof.Machine
end

