-- ==== Sys2Proof/Machine/Flags.lean ====
section
/-! DEFINITION. The flags and what is computed from the control state: the operating mode (rules R30, R285), the
successor of a polling phase (rule R280), the dispatcher's filter (rule R161) and the defer gate (rule R203). The
CRC and the queue set no flag (rules R121, R149). -/

namespace Sys2Proof.Machine

/-- The three operating modes (rule R285). -/
inductive Mode where
  | bringup
  | normal
  | reportOnly
  deriving DecidableEq, Repr

/-- `mode(phase)` (rule R30): BRINGUP for `B_*`, NORMAL for `N_*`, REPORT_ONLY for `E_*` and `P_*`. -/
def Phase.mode : Phase → Mode
  | .bIdlePins => .bringup
  | .bCheckReady => .bringup
  | .bInit => .bringup
  | .bBaseline => .bringup
  | .bFinish => .bringup
  | .nWait => .normal
  | .nSend _ => .normal
  | .nPoll => .normal
  | .eEnter => .reportOnly
  | .pSampleRear => .reportOnly
  | .pPollA => .reportOnly
  | .pSampleFront => .reportOnly
  | .pPollB => .reportOnly

/-- Where the calling phase proceeds when `poll()` returns (rules R205, R249, R280). `poll()` is called from
`N_POLL`, `P_POLL_A` and `P_POLL_B` only (rule R160); no other phase has a return to make. -/
def Phase.afterPoll : Phase → Phase
  | .nPoll => .nWait
  | .pPollA => .pSampleFront
  | .pPollB => .pSampleRear
  | p => p

/-- The phases that call `poll()` (rule R160). -/
def Phase.polls : Phase → Bool
  | .nPoll => true
  | .pPollA => true
  | .pPollB => true
  | _ => false

/-- The dispatcher's filter: the opcode is discarded in mode REPORT_ONLY unless it is 0x03, and discarded in
every mode when it is above 0x04 (rule R161). -/
def filtered (reportOnly : Bool) (opcode : Byte) : Bool :=
  (reportOnly && opcode != 0x03) || decide (0x04 < opcode.toNat)

/-- Whether the defer gate holds the queue back, `gate` being `DEFER_GATE_EFFECTIVE` (rule R203). -/
def State.heldBack (gate : Bool) (s : State) : Bool := gate && s.defer

/-- `defer <- false`, the one write of the defer flag (rules R32, R173). -/
def State.clearDefer (s : State) : State := { s with defer := false }

/-- `reportOnly <- true`, the one write of the mode flag (rules R31, R247). -/
def State.setReportOnly (s : State) : State := { s with reportOnly := true }

end Sys2Proof.Machine
end

