-- ==== Sys2Proof/Machine/Ops.lean ====
section
/-! DEFINITION. The named operations over memory, streams, pins and bus: QMEM bytes (rules R10, R60), a turn of
the environment (rules R68, R331), the hardware-access primitives (rule R11), and `raise` with the return from
`poll()` (rule R280). Every primitive begins with one turn of the environment, so that HOST and FPGA may act
between any two primitive calls (rule R68, decision D2). -/

namespace Sys2Proof.Machine

/-! ### QMEM -/

/-- The byte written at an address, or none where nothing has been written (U2). -/
def Memory.read : Memory → Nat → Option Byte
  | [], _ => none
  | (a, b) :: m, k => if k = a then some b else Memory.read m k

/-- Write one byte, keeping the addresses strictly rising. -/
def Memory.write : Memory → Nat → Byte → Memory
  | [], k, v => [(k, v)]
  | (a, b) :: m, k, v =>
    if k < a then (k, v) :: (a, b) :: m
    else if k = a then (k, v) :: m
    else (a, b) :: Memory.write m k v

/-- `MemWrite(addr, len(v), v)`: `v[0]` at `addr` (rule R10). -/
def Memory.writeBytes : Memory → Nat → List Byte → Memory
  | m, _, [] => m
  | m, a, b :: bs => Memory.writeBytes (Memory.write m a b) (a + 1) bs

/-- The canonical form: addresses strictly rising, and all of them in QMEM (rule R60). No entry can equal what
an unlisted address reads as, since that is no value. -/
abbrev Memory.wf (m : Memory) : Prop :=
  m.Pairwise (fun c d => c.1 < d.1) ∧ ∀ c ∈ m, c.1 < 2600

/-- The byte address of slot `slot` (rule R60). -/
def slotAddr (slot : Fin 200) : Nat := 13 * slot.val

/-- Whether every byte of a slot has been written. -/
def Memory.slotWritten (m : Memory) (slot : Fin 200) : Bool :=
  (List.range 13).all fun i => (Memory.read m (slotAddr slot + i)).isSome

/-- The Command written in a slot, if all its bytes have been written (rule R60). -/
def Memory.readSlot (m : Memory) (slot : Fin 200) : Option Command :=
  if m.slotWritten slot then
    some ⟨((List.range 13).map fun i => (Memory.read m (slotAddr slot + i)).getD 0x00).toArray, by simp⟩
  else none

/-- `MemWrite(13*slot, 13, cmd)` (rules R10, R60). -/
def Memory.writeSlot (m : Memory) (slot : Fin 200) (cmd : Command) : Memory :=
  Memory.writeBytes m (slotAddr slot) cmd.toList

/-! ### A turn of the environment -/

/-- What the FPGA's moves act on: BUSDATA, XFER_DONE and FPGA_OUT. -/
structure BusView where
  data : Byte
  done : Bool
  out : List Byte
  deriving DecidableEq, Repr

/-- One move on the bus. A write needs `busRole = SLAVE` (rules R36, R331); a clock needs a slave transfer in
progress that is not yet complete: the FPGA then receives the byte sent, BUSDATA becomes the byte the FPGA
sends, and XFER_DONE becomes 1 (rule R37). A move the FPGA has no right to make is no move (U6). -/
def busMove (role : BusRole) (xfer : Option Byte) (v : BusView) : EnvMove → BusView
  | .fpgaWrite b => if role = .slave then { v with data := b } else v
  | .fpgaClock b =>
    match role, xfer with
    | .slave, some sent => if v.done then v else { data := b, done := true, out := v.out ++ [sent] }
    | _, _ => v
  | .hostByte _ => v
  | .fpgaReady _ => v

/-- The bytes HOST appends to RX by its moves, in order (rule R41). -/
def hostBytes : List EnvMove → List Byte
  | [] => []
  | .hostByte b :: ms => b :: hostBytes ms
  | _ :: ms => hostBytes ms

/-- The level of `PIN_FPGA_READY` after some moves (rule R35). -/
def readyLevel (l : Level) : List EnvMove → Level
  | [] => l
  | .fpgaReady l' :: ms => readyLevel l' ms
  | _ :: ms => readyLevel l ms

/-- The moves of the environment's next turn; none once `env` is used up. -/
def State.nextMoves (s : State) : List EnvMove := s.env.headD []

/-- The bus after the environment's next turn. -/
def State.busAfterTurn (s : State) : BusView :=
  s.nextMoves.foldl (busMove s.busRole s.xfer)
    { data := s.busData, done := s.xferDone, out := s.fpgaOut }

/-- One turn of the environment: the moves at the front of `env`, in order. It writes RX, BUSDATA, XFER_DONE,
FPGA_OUT and `PIN_FPGA_READY` and nothing else of the block (rules R68, R331). -/
def State.envTurn (s : State) : State :=
  { s with
    env := s.env.tail
    rx := s.rx ++ hostBytes s.nextMoves
    pinFpgaReady := readyLevel s.pinFpgaReady s.nextMoves
    busData := s.busAfterTurn.data
    xferDone := s.busAfterTurn.done
    fpgaOut := s.busAfterTurn.out }

/-- `k` turns of the environment in a row. -/
def State.envTurns : Nat → State → State
  | 0, s => s
  | k + 1, s => State.envTurns k s.envTurn

/-! ### Primitives (rule R11) -/

/-- `PinSet(p, level)`. -/
def State.pinSet (p : OutputPin) (l : Level) (s : State) : State :=
  let s := s.envTurn
  match p with
  | .accelInit => { s with pinAccelInit := l }
  | .fpgaEnable => { s with pinFpgaEnable := l }
  | .csRear => { s with pinCsRear := l }
  | .csFront => { s with pinCsFront := l }

/-- `PinRead(PIN_FPGA_READY)`, the one input (rule R35). -/
def State.pinReadReady (s : State) : State × Level :=
  let s := s.envTurn
  (s, s.pinFpgaReady)

/-- `Delay(d)` does nothing a rule can observe; the environment may act meanwhile. -/
def State.delay (_d : Nat) (s : State) : State := s.envTurn

/-- `BusSetRole(r)`. -/
def State.busSetRole (r : BusRole) (s : State) : State :=
  { s.envTurn with busRole := r }

/-- `BusPeek()`: BUSDATA, without a transfer. -/
def State.busPeek (s : State) : State × Byte :=
  let s := s.envTurn
  (s, s.busData)

/-- `BusPoke(v)`: write BUSDATA, without a transfer. -/
def State.busPoke (v : Byte) (s : State) : State :=
  { s.envTurn with busData := v }

/-- `RxTry()`: remove and return the oldest byte of RX, or change nothing when RX is empty. -/
def State.rxTry (s : State) : State × Option Byte :=
  let s := s.envTurn
  match s.rx with
  | [] => (s, none)
  | b :: rest => ({ s with rx := rest }, some b)

/-- `Tx(bytes)`: append to TX, in order; it always completes (decision D19). -/
def State.transmit (bytes : List Byte) (s : State) : State :=
  let s := s.envTurn
  { s with tx := s.tx ++ bytes }

/-- `draw(byte)`: a byte under no law (rule R10). -/
def State.drawByte (s : State) : State × Byte :=
  ({ s with draws := s.draws + 1 }, Config.freeByte s.draws)

/-- The bytes of a slot, a free byte in the place of each that has never been written (U2, D33). -/
def State.drawnSlot (slot : Fin 200) (s : State) : Command :=
  Vector.ofFn fun i => (s.qmem.read (slotAddr slot + i.val)).getD (Config.freeByte (s.draws + i.val))

/-- `MemRead(13*slot, 13)` (rules R10, R60). A byte that has never been written is a free value (U2, D33): a read that meets
one takes thirteen draws, one for each address, and uses those of the unwritten bytes. -/
def State.memReadSlot (slot : Fin 200) (s : State) : State × Command :=
  match s.qmem.readSlot slot with
  | some cmd => (s, cmd)
  | none => ({ s with draws := s.draws + 13 }, s.drawnSlot slot)

/-- The rear sensor's next byte: from `rearAnswers`, then drawn (rule R37, U5). -/
def State.rearByte (s : State) : State × Byte :=
  match s.rearAnswers with
  | b :: bs => ({ s with rearAnswers := bs }, b)
  | [] => s.drawByte

/-- The front sensor's next byte: from `frontAnswers`, then drawn (rule R37, U5). -/
def State.frontByte (s : State) : State × Byte :=
  match s.frontAnswers with
  | b :: bs => ({ s with frontAnswers := bs }, b)
  | [] => s.drawByte

/-- The byte a master transfer receives: the addressed sensor's, which itself receives `sent` (rules R37, R43). With
no chip-select asserted, or both, no rule says what is received: the byte is drawn. -/
def State.sensorExchange (sent : Byte) (s : State) : State × Byte :=
  match s.pinCsRear, s.pinCsFront with
  | .asserted, .deasserted => State.rearByte { s with sensorOutRear := s.sensorOutRear ++ [sent] }
  | .deasserted, .asserted => State.frontByte { s with sensorOutFront := s.sensorOutFront ++ [sent] }
  | .asserted, .asserted =>
    State.drawByte { s with
      sensorOutRear := s.sensorOutRear ++ [sent]
      sensorOutFront := s.sensorOutFront ++ [sent] }
  | .deasserted, .deasserted => s.drawByte

/-- `BusTransfer(sent)` in `MASTER` role: it completes on its own (rule R37, decision D32). -/
def State.masterTransfer (sent : Byte) (s : State) : State × Byte :=
  let r := State.sensorExchange sent s.envTurn
  ({ r.1 with busData := r.2, xferDone := true }, r.2)

/-- The first part of `BusTransfer(sent)` in `SLAVE` role: `BUSDATA <- sent; XFER_DONE <- 0` (rule R37). -/
def State.beginTransfer (sent : Byte) (s : State) : State :=
  { s.envTurn with busData := sent, xferDone := false, xfer := some sent }

/-- The end of a slave transfer: XFER_DONE was seen to be 1 (rule R37). -/
def State.endTransfer (s : State) : State := { s with xfer := none }

/-! ### Errors (rules R10, R280) -/

/-- The source's five error classes (rule R270). Nothing is recorded about an error. -/
inductive ErrorClass where
  | timeout
  | integrityFailure
  | capacityFailure
  | protocolViolation
  | hardwareFault
  deriving DecidableEq, Repr

/-- Return from `poll()`: the calling phase proceeds to its successor (rules R205, R249). -/
def State.returnFromPoll (s : State) : State := { s with phase := s.phase.afterPoll }

/-- `raise <Error>`: keep every change made so far, send nothing, make no other change and return from
`poll()` (rule R280). The class is named for the reader and stored nowhere (rules R270, R280). -/
def raise (_e : ErrorClass) (s : State) : Host.Outcome State Fault Refusal :=
  .next s.returnFromPoll

/-- The end of a command that ran to completion: return from `poll()` (rules R205, R249). -/
def finish (s : State) : Host.Outcome State Fault Refusal :=
  .next s.returnFromPoll

end Sys2Proof.Machine
end

