-- ==== Sys2Proof/Machine/Queue.lean ====
section
/-! DEFINITION. The Command Queue (spec/40_queue.md): a ring buffer of 200 slots of 13 bytes. -/

namespace Sys2Proof.Machine

/-- Slot `tail` takes the Command, then `tail` and `count` advance (rule R121). -/
def State.storeTail (cmd : Command) (s : State) : State :=
  { s with qmem := s.qmem.writeSlot s.tail cmd, tail := s.tail + 1, count := s.count + 1 }

/-- The oldest slot leaves the queue, keeping its bytes (rule R122). -/
def State.dropHead (s : State) : State :=
  { s with head := s.head + 1, count := s.count - 1 }

/-- `QueueTryAppend(cmd)` (rule R121): false, and nothing written, iff the queue is full. -/
def State.queueTryAppend (cmd : Command) (s : State) : State × Bool :=
  if s.count = Params.queueCapacity then (s, false) else (s.storeTail cmd, true)

/-- `QueueTryPop()` (rule R122): `none` when the queue is empty, else the Command in slot `head`; total in every state
(rule R120). -/
def State.queueTryPop (s : State) : State × Option Command :=
  if s.count = 0 then (s, none)
  else
    let r := s.memReadSlot s.head
    (r.1.dropHead, some r.2)

/-- `QueueIsEmpty()` (rule R123): decided by `count`, never by comparing the indices. -/
def State.queueIsEmpty (s : State) : Bool := decide (s.count = 0)

end Sys2Proof.Machine
end

