-- ==== Sys2Proof/Machine/Exchange.lean ====
section
/-! DEFINITION. The FPGA Exchange Loop's phases `N_WAIT` and `N_SEND(i)` and the frame builder
(spec/43_fpga_exchange.md); `N_POLL` is in Sys2Proof/Machine/Poll.lean. -/

namespace Sys2Proof.Machine

/-- The frame `[FRAME_HEAD] || body || FRAME_TRAIL` (rules R100, R101). -/
def frameOf (body : Command) : Frame :=
  (#v[Config.frameHead] ++ body) ++ Config.frameTrail

/-- `BuildFrame()` with a given `DEFER_GATE_EFFECTIVE` (rule R203): filler while the gate holds or the queue is empty,
else the oldest Command, popped. -/
def buildFrameWith (gate : Bool) (s : State) : State × Frame :=
  if s.heldBack gate || s.queueIsEmpty then (s, frameOf Config.filler)
  else
    match s.queueTryPop with
    | (s, some cmd) => (s, frameOf cmd)
    | (s, none) => (s, frameOf Config.filler)

/-- Phase `N_WAIT` with a given `DEFER_GATE_EFFECTIVE` (rules R201, R202): look at BUSDATA; on the sentinel, clear it
and build the frame. -/
def waitSentinelWith (gate : Bool) (s : State) : Host.Outcome State Fault Refusal :=
  match s.busPeek with
  | (s, v) =>
    if v = Params.sentinel then
      let r := buildFrameWith gate (s.busPoke Params.sentinelClear)
      .next { r.1 with frameBuf := r.2, phase := .nSend 0 }
    else .next s

/-- Phase `N_WAIT` under the block's `DEFER_GATE_EFFECTIVE` (rules R8, R201). -/
def waitSentinel (s : State) : Host.Outcome State Fault Refusal :=
  waitSentinelWith s.params.deferGateEffective s

/-- The phase after `N_SEND(i)` (rule R204). -/
def afterSend (i : Fin 19) : Phase :=
  if h : i.val < 18 then .nSend ⟨i.val + 1, by omega⟩ else .nPoll

/-- One look at the hold of a slave transfer (rules R37, R204): the sequencer goes on when XFER_DONE is 1 and stays
in `N_SEND(i)` otherwise, without bound (rule R323, decision D31). -/
def holdTransfer (i : Fin 19) (s : State) : Host.Outcome State Fault Refusal :=
  let s := s.envTurn
  if s.xferDone then .next { s.endTransfer with phase := afterSend i }
  else .next s

/-- Phase `N_SEND(i)` (rule R204): begin the transfer of frame byte `i` unless it is in progress, then look at the
hold. In `MASTER` role a transfer completes on its own (rule R37). The byte received is ignored. -/
def sendByte (i : Fin 19) (s : State) : Host.Outcome State Fault Refusal :=
  match s.busRole with
  | .slave =>
    match s.xfer with
    | none => holdTransfer i (s.beginTransfer (s.frameBuf.get i))
    | some _ => holdTransfer i s
  | .master => .next { (s.masterTransfer (s.frameBuf.get i)).1 with phase := afterSend i }
  | .unconfigured => .refused .transferUnconfigured

end Sys2Proof.Machine
end

