-- ==== Sys2Proof/Machine/Operands.lean ====
section
/-! DEFINITION. Operand assembly: 16-bit values and their bytes (rules R9, R62, R96), the scratch buffer (rule R26),
and the timed read by which STEPS fetches its operands (rule R163). -/

namespace Sys2Proof.Machine

/-- `hi8(v)` (rule R9). -/
def hi8 (v : Half) : Byte := v.extractLsb' 8 8

/-- `lo8(v)` (rule R9). -/
def lo8 (v : Half) : Byte := v.extractLsb' 0 8

/-- A 16-bit value from its two bytes, the high byte first (rules R62, R65, R96). -/
def joinBytes (hi lo : Byte) : Half := hi ++ lo

/-- `s[i..j)` of a byte sequence (rule R9). -/
def sliceBytes (l : List Byte) (i j : Nat) : List Byte := (l.drop i).take (j - i)

/-- Overwrite the bytes from index `start` on with `l`, as far as the sequence reaches. -/
def patchBytes : List Byte → Nat → List Byte → List Byte
  | [], _, _ => []
  | x :: xs, 0, [] => x :: xs
  | _ :: xs, 0, b :: bs => b :: patchBytes xs 0 bs
  | x :: xs, k + 1, l => x :: patchBytes xs k l

theorem length_patchBytes (xs : List Byte) (k : Nat) (l : List Byte) :
    (patchBytes xs k l).length = xs.length := by
  induction xs generalizing k l with
  | nil => simp [patchBytes]
  | cons x xs ih => cases k <;> cases l <;> simp [patchBytes, ih]

/-- `buf[start..start+len(l)) <- l` (rule R26). -/
def putBytes {m : Nat} (v : Vector Byte m) (start : Nat) (l : List Byte) : Vector Byte m :=
  ⟨(patchBytes v.toList start l).toArray, by simp [length_patchBytes]⟩

/-- `buf[0] <- opcode` (rule R161). -/
def State.storeOpcode (opcode : Byte) (s : State) : State :=
  { s with buf := putBytes s.buf 0 [opcode] }

/-- `buf[1..14) <- r` (rule R171). -/
def State.storePayload (r : List Byte) (s : State) : State :=
  { s with buf := putBytes s.buf 1 r }

/-- `buf[14] <- r[0]; buf[15] <- r[1]` (rule R144). -/
def State.storeChecksum (r : List Byte) (s : State) : State :=
  { s with buf := putBytes s.buf 14 r }

/-- The Command in `buf[1..14)` (rules R26, R171). -/
def State.bufCommand (s : State) : Command :=
  ⟨(sliceBytes s.buf.toList 1 14).toArray, by simp [sliceBytes]⟩

/-- A timed read begins: both counters at 0 (rule R163). -/
def State.startCounters (s : State) : State := { s with interbyte := 0, transaction := 0 }

/-- A byte was received: `interbyte` starts again, `transaction` does not (rule R163). -/
def State.countByte (s : State) : State := { s with interbyte := 0 }

/-- RX was found empty: both counters advance (rule R163). -/
def State.countEmptyPoll (s : State) : State :=
  { s with interbyte := s.interbyte + 1, transaction := s.transaction + 1 }

/-- The loop of `TimedRead(n)` (rule R163): `got` is what has been read so far; the two limits are arguments. Each
round is one `RxTry()`, and `fuel` bounds their number, which `n + transLimit + 1` is enough for. -/
def timedReadLoop (interLimit transLimit : Nat) : Nat → Nat → State → List Byte → State × List Byte
  | 0, _, s, got => (s, got)
  | fuel + 1, n, s, got =>
    if got.length < n then
      match s.rxTry with
      | (s, some b) => timedReadLoop interLimit transLimit fuel n s.countByte (got ++ [b])
      | (s, none) =>
        if s.interbyte + 1 > interLimit ∨ s.transaction + 1 > transLimit then (s.countEmptyPoll, got)
        else timedReadLoop interLimit transLimit fuel n s.countEmptyPoll got
    else (s, got)

/-- `TimedRead(n)` under given limits (rule R163). -/
def timedReadWith (interLimit transLimit n : Nat) (s : State) : State × List Byte :=
  timedReadLoop interLimit transLimit (transLimit + n + 1) n s.startCounters []

/-- `TimedRead(n)` under the OPEN limits of rule R8 (rule R163). -/
def timedRead (n : Nat) (s : State) : State × List Byte :=
  timedReadWith Config.interbyteLimit Config.transactionLimit n s

end Sys2Proof.Machine
end

