-- ==== Sys2Proof/Machine/Sampler.lean ====
section
/-! DEFINITION. The Accelerometer Sampler (spec/44_accel_sampler.md). -/

namespace Sys2Proof.Machine

/-- A sensor's chip-select pin (rule R220). -/
def Channel.csPin : Channel → OutputPin
  | .rear => .csRear
  | .front => .csFront

/-- `ReadOnce(cs)` (rule R221): select, three transfers, deselect; the first response byte is the high one. -/
def readOnce (ch : Channel) (s : State) : State × Half :=
  let s := s.pinSet ch.csPin .asserted
  let s := (s.masterTransfer Params.accelReadCmd).1
  let hi := s.masterTransfer Config.dummyByte
  let lo := hi.1.masterTransfer Config.dummyByte
  (lo.1.pinSet ch.csPin .deasserted, joinBytes hi.2 lo.2)

/-- What one reading contributes to the sum: `r >> 5`, unsigned (rule R222). -/
def contribution (r : Half) : Half := r >>> Params.sampleShift

/-- A sample begins: `sum` and `n` at 0 (rules R40, R220). -/
def State.startSample (s : State) : State := { s with sum := 0, n := 0 }

/-- A reading is counted and its contribution added (rules R220, R222). -/
def State.addReading (v : Half) (s : State) : State := { s with n := s.n + 1, sum := s.sum + v }

/-- One round of the sampling loop (rule R220): delay, read, add. -/
def sampleRound (ch : Channel) (s : State) : State :=
  let r := readOnce ch (s.delay Config.tPreSample)
  r.1.addReading (contribution r.2)

/-- `k` rounds of the sampling loop (rule R220). -/
def sampleRounds : Nat → Channel → State → State
  | 0, _, s => s
  | k + 1, ch, s => sampleRounds k ch (sampleRound ch s)

/-- `Sample(channel)` (rules R220, R223): 17 readings, then the truncated quotient of their sum by 17. -/
def sample (ch : Channel) (s : State) : State × Half :=
  let s := sampleRounds Params.nSamples ch s.startSample
  (s, s.sum / 17#16)

/-- `accelRear <- Sample(REAR)` (rules R244, R249). -/
def sampleRear (s : State) : State :=
  let r := sample .rear s
  { r.1 with accelRear := r.2 }

/-- `accelFront <- Sample(FRONT)` (rules R244, R249). -/
def sampleFront (s : State) : State :=
  let r := sample .front s
  { r.1 with accelFront := r.2 }

end Sys2Proof.Machine
end

