-- ==== Sys2Proof/Machine/ModeFsm.lean ====
section
/-! DEFINITION. The phases of the Power-On / Mode State Machine (spec/45_mode_fsm.md) and the sampling phases of the
report-only loop; `P_POLL_A` and `P_POLL_B` are in Sys2Proof/Machine/Poll.lean. -/

namespace Sys2Proof.Machine

/-- Phase `B_IDLE_PINS` (rule R241). -/
def idlePins (s : State) : Host.Outcome State Fault Refusal :=
  let s := s.pinSet .csRear .deasserted
  let s := s.pinSet .csFront .deasserted
  let s := s.pinSet .accelInit .deasserted
  let s := s.pinSet .fpgaEnable .deasserted
  .next { s with phase := .bCheckReady }

/-- Error class HardwareFault (rule R275): no `raise`, but the permanent diversion to report-only mode. -/
def hardwareFault (s : State) : Host.Outcome State Fault Refusal :=
  .next { s with phase := .eEnter }

/-- Phase `B_CHECK_READY` (rule R242): `PIN_FPGA_READY` is read once. -/
def checkReady (s : State) : Host.Outcome State Fault Refusal :=
  match s.pinReadReady with
  | (s, .asserted) => .next { s with phase := .bInit }
  | (s, .deasserted) => hardwareFault s

/-- The four steps shared by bring-up and the report-only entry (rules R243, R247): assert accel-init, delay, master
role, delay. -/
def takeMasterRole (s : State) : State :=
  let s := s.pinSet .accelInit .asserted
  let s := s.delay Config.tInitHold
  let s := s.busSetRole .master
  s.delay Config.tMasterSettle

/-- Phase `B_INIT` (rule R243). -/
def initAccel (s : State) : Host.Outcome State Fault Refusal :=
  .next { takeMasterRole s with phase := .bBaseline }

/-- Phase `B_BASELINE` (rule R244): rear, then front (decision D29). -/
def baseline (s : State) : Host.Outcome State Fault Refusal :=
  if s.busRole = .master then .next { sampleFront (sampleRear s) with phase := .bFinish }
  else .refused .sampleOutsideMaster

/-- Phase `B_FINISH` (rule R245). -/
def finishBringup (s : State) : Host.Outcome State Fault Refusal :=
  let s := s.pinSet .accelInit .deasserted
  let s := s.delay Config.tPostInit
  let s := s.busSetRole .slave
  let s := s.pinSet .fpgaEnable .asserted
  .next { s with phase := .nWait }

/-- Phase `E_ENTER` (rule R247): the mode flag first (decision D30). -/
def enterReportOnly (s : State) : Host.Outcome State Fault Refusal :=
  .next { takeMasterRole s.setReportOnly with phase := .pSampleRear }

/-- Phase `P_SAMPLE_REAR` (rule R249). -/
def reportRear (s : State) : Host.Outcome State Fault Refusal :=
  if s.busRole = .master then .next { sampleRear s with phase := .pPollA }
  else .refused .sampleOutsideMaster

/-- Phase `P_SAMPLE_FRONT` (rule R249). -/
def reportFront (s : State) : Host.Outcome State Fault Refusal :=
  if s.busRole = .master then .next { sampleFront s with phase := .pPollB }
  else .refused .sampleOutsideMaster

end Sys2Proof.Machine
end

