-- ==== Sys2Proof/Syntax.lean ====
section
/-! DEFINITION. The instructions: one constructor per row of spec/opcode_table.json (rule R97).

An instruction is what the decoder reads from ONE opcode byte (rule R90). The 13 payload bytes and the
checksum of STEPS are operands that the handler itself reads from RX, under timeouts (rules R163, R171,
R76): they may never arrive, so they are no part of the decoded instruction. The rows of the reserved
range carry the opcode byte, which `raise ProtocolViolation(b)` names (rule R161). -/

namespace Sys2Proof

/-- The five host commands and the seven rows of the reserved range (rule R97). -/
inductive Instr where
  /-- READY, opcode 0x00 (rule R170). -/
  | ready
  /-- STEPS, opcode 0x01 (rule R171). -/
  | steps
  /-- EXEC_QUEUE, opcode 0x02 (rule R173). -/
  | execQueue
  /-- GET_ACCELS, opcode 0x03 (rule R174). -/
  | getAccels
  /-- SWITCH_TO_ACCEL_REPORT_MODE, opcode 0x04 (rule R175). -/
  | switchToAccelReportMode
  /-- RESERVED_05, opcode 0x05 (rules R97, R98). -/
  | reserved05
  /-- RESERVED_06_07, opcodes 0x06 and 0x07 (rules R97, R98). -/
  | reserved06_07 (opcode : Byte)
  /-- RESERVED_08_0F, opcodes 0x08 to 0x0F (rules R97, R98). -/
  | reserved08_0F (opcode : Byte)
  /-- RESERVED_10_1F, opcodes 0x10 to 0x1F (rules R97, R98). -/
  | reserved10_1F (opcode : Byte)
  /-- RESERVED_20_3F, opcodes 0x20 to 0x3F (rules R97, R98). -/
  | reserved20_3F (opcode : Byte)
  /-- RESERVED_40_7F, opcodes 0x40 to 0x7F (rules R97, R98). -/
  | reserved40_7F (opcode : Byte)
  /-- RESERVED_80_FF, opcodes 0x80 to 0xFF (rules R97, R98). -/
  | reserved80_FF (opcode : Byte)
  deriving DecidableEq, Repr

end Sys2Proof
end

