-- ==== Sys2Proof/WellFormed.lean ====
section
/-! DEFINITION. When an instruction term stands for an opcode byte of its own row: the operand of a
reserved row lies in that row's range (`opcode & mask = match`, rule R97). -/

namespace Sys2Proof

/-- The opcode lies in the row's range (rule R97); the rows without an operand always do. -/
def Instr.wellFormed : Instr → Bool
  | .ready => true
  | .steps => true
  | .execQueue => true
  | .getAccels => true
  | .switchToAccelReportMode => true
  | .reserved05 => true
  | .reserved06_07 b => decide (0x06 ≤ b.toNat ∧ b.toNat ≤ 0x07)
  | .reserved08_0F b => decide (0x08 ≤ b.toNat ∧ b.toNat ≤ 0x0F)
  | .reserved10_1F b => decide (0x10 ≤ b.toNat ∧ b.toNat ≤ 0x1F)
  | .reserved20_3F b => decide (0x20 ≤ b.toNat ∧ b.toNat ≤ 0x3F)
  | .reserved40_7F b => decide (0x40 ≤ b.toNat ∧ b.toNat ≤ 0x7F)
  | .reserved80_FF b => decide (0x80 ≤ b.toNat ∧ b.toNat ≤ 0xFF)

end Sys2Proof
end

