-- ==== Sys2Proof/Decode.lean ====
section
/-! DEFINITION. Decoding and encoding. The decoder looks at one opcode byte, the whole of it, compared as
an unsigned number (rule R90); a request's further bytes are not decoded but read by the handler (rules
R91, R92, R99). The mode filter comes after the table lookup (rule R97) and is part of the meanings. -/

namespace Sys2Proof

/-- Why the decoder answers no instruction. -/
inductive DecodeError where
  /-- There is no byte to decode. -/
  | noByte
  deriving DecidableEq, Repr

/-- The row of the opcode map an opcode byte lies in, by the rows' `opcode & mask = match`; the twelve
rows partition all 256 bytes (rule R97). -/
def decodeOpcode (b : Byte) : Instr :=
  if b &&& 0xFF = 0x00 then .ready
  else if b &&& 0xFF = 0x01 then .steps
  else if b &&& 0xFF = 0x02 then .execQueue
  else if b &&& 0xFF = 0x03 then .getAccels
  else if b &&& 0xFF = 0x04 then .switchToAccelReportMode
  else if b &&& 0xFF = 0x05 then .reserved05
  else if b &&& 0xFE = 0x06 then .reserved06_07 b
  else if b &&& 0xF8 = 0x08 then .reserved08_0F b
  else if b &&& 0xF0 = 0x10 then .reserved10_1F b
  else if b &&& 0xE0 = 0x20 then .reserved20_3F b
  else if b &&& 0xC0 = 0x40 then .reserved40_7F b
  else .reserved80_FF b

/-- Decode the front of a byte sequence: the instruction and the bytes after its opcode (rule R90). -/
def decode : List Byte → Except DecodeError (Instr × List Byte)
  | [] => .error .noByte
  | b :: rest => .ok (decodeOpcode b, rest)

/-- The opcode byte of an instruction (rule R97). -/
def encodeOpcode : Instr → Byte
  | .ready => 0x00
  | .steps => 0x01
  | .execQueue => 0x02
  | .getAccels => 0x03
  | .switchToAccelReportMode => 0x04
  | .reserved05 => 0x05
  | .reserved06_07 b => b
  | .reserved08_0F b => b
  | .reserved10_1F b => b
  | .reserved20_3F b => b
  | .reserved40_7F b => b
  | .reserved80_FF b => b

/-- The bytes the decoder reads an instruction from: its opcode byte (rule R90). The operand bytes of a
STEPS request are added by `assemble` (Sys2Proof/Machine/HostRequest.lean). -/
def encode (i : Instr) : List Byte := [encodeOpcode i]

/-- The length in bytes of the longest request (format Q1, rule R92). -/
def longestRequest : Nat := 16

/-- The bytes of an instruction word of the opcode table, first byte first: byte `k` is bits `8k+7..8k` of
`w`, and every bit from `nbits` on is zero, up to the longest request. -/
def tableBytes (nbits w : Nat) : List Byte :=
  (List.range longestRequest).map fun k =>
    if k < nbits / 8 then BitVec.ofNat 8 (w >>> (8 * k)) else 0x00

/-- The instruction the decoder reads from a word of the opcode table. -/
def decodeTableWord (nbits w : Nat) : Option Instr :=
  match decode (tableBytes nbits w) with
  | .ok (i, _) => some i
  | .error _ => none

end Sys2Proof
end

