-- ==== Sys2Proof/Machine/Crc.lean ====
section
/-! DEFINITION. The Integrity Layer (spec/41_crc.md): the pure step and checksum functions, and the operations on the
accumulator `crc`. -/

namespace Sys2Proof.Machine

/-- One round: if bit 15 is set, shift left and exclusive-or with 0x1021, else shift left (rules R141, R142). -/
def crcRound (a : Half) : Half :=
  if a.getLsbD 15 then (a <<< 1) ^^^ Params.crcPoly else a <<< 1

/-- `k` rounds. -/
def crcRounds : Nat → Half → Half
  | 0, a => a
  | k + 1, a => crcRounds k (crcRound a)

/-- `CrcByte(acc, b)`: the byte goes into bits 15 to 8, then eight rounds (rule R142). -/
def crcByte (acc : Half) (b : Byte) : Half :=
  crcRounds 8 (acc ^^^ (b.setWidth 16 <<< 8))

/-- The fold of a byte sequence from a given accumulator (rule R142). -/
def crcFrom (acc : Half) (bytes : List Byte) : Half := bytes.foldl crcByte acc

/-- `CRC16(s)`, the checksum of a byte sequence (rule R143). -/
def crc16 (bytes : List Byte) : Half := crcFrom Params.crcInit bytes

/-- `CrcReset()` (rule R140). -/
def State.crcReset (s : State) : State := { s with crc := Params.crcInit }

/-- `CrcFold(bytes, len(bytes), carry)` (rule R141): fresh mode reseeds first. -/
def State.crcFold (bytes : List Byte) (carry : Bool) (s : State) : State :=
  let s := if carry then s else s.crcReset
  { s with crc := crcFrom s.crc bytes }

/-- The three ways `CrcVerify` can end (rules R144, R171): the spec's `false` is `short` or `mismatch`. -/
inductive VerifyResult where
  | short
  | mismatch
  | ok
  deriving DecidableEq, Repr

/-- `CrcVerify(bytes, len(bytes))` (rule R144): read two bytes, store them, fold fresh, compare all 16 bits, the first
byte read being the high one. On a short read the fold is skipped (decision D18). -/
def State.crcVerify (bytes : List Byte) (s : State) : State × VerifyResult :=
  match timedRead 2 s with
  | (s, [hi, lo]) =>
    let s := State.crcFold bytes false (s.storeChecksum [hi, lo])
    (s, if s.crc = joinBytes hi lo then .ok else .mismatch)
  | (s, _) => (s, .short)

end Sys2Proof.Machine
end

