-- ==== Sys2Proof/Machine/Dispatcher.lean ====
section
/-! DEFINITION. The Command Dispatcher's shared operations (spec/42_dispatcher.md): the filter, the response framer, and
the bodies of the commands that depend on an open parameter of the block (rule R8). -/

namespace Sys2Proof.Machine

/-- `Decode(b)` up to the dispatch (rule R161): a filtered opcode raises ProtocolViolation; one that passes is
stored in `buf[0]` and its handler runs. -/
def accept (opcode : Byte) (s : State) (handler : State → Host.Outcome State Fault Refusal) :
    Host.Outcome State Fault Refusal :=
  if filtered s.reportOnly opcode then raise .protocolViolation s
  else handler (s.storeOpcode opcode)

/-- `SendResponse(op, payload)` (rule R165): the opcode is folded fresh and not sent, the payload is folded with carry,
and the payload and the checksum, high byte first, are sent. -/
def State.sendResponse (opcode : Byte) (payload : List Byte) (s : State) : State :=
  let s := (s.crcFold [opcode] false).crcFold payload true
  s.transmit (payload ++ [hi8 s.crc, lo8 s.crc])

/-- `Ready()` with a given `READY_MAGIC` (rule R170). -/
def readyWith (magic : Byte) (s : State) : Host.Outcome State Fault Refusal :=
  finish (s.sendResponse 0x00 [magic])

/-- The bytes of `buf` that the STEPS request checksum covers (rules R93, R171). -/
def State.stepsCovered (span : CrcSpan) (s : State) : List Byte :=
  match span with
  | .opcodeAndPayload => sliceBytes s.buf.toList 0 14
  | .payloadOnly => sliceBytes s.buf.toList 1 14

/-- The end of `Steps()`, the checksum having been found right (rule R171): append, then the status. A full queue is
CapacityFailure, which is answered and not raised (rule R273). -/
def stepsAppend (s : State) : Host.Outcome State Fault Refusal :=
  match s.queueTryAppend s.bufCommand with
  | (s, true) => finish (s.sendResponse 0x01 [Params.statusAccepted])
  | (s, false) => finish (s.sendResponse 0x01 [Params.statusFull])

/-- `Steps()` after the payload read (rule R171): verify the checksum, then append. -/
def stepsVerify (span : CrcSpan) (s : State) : Host.Outcome State Fault Refusal :=
  match s.crcVerify (s.stepsCovered span) with
  | (s, .short) => raise .timeout s
  | (s, .mismatch) => raise .integrityFailure s
  | (s, .ok) => stepsAppend s

/-- `Steps()` with a given `STEPS_CRC_SPAN` (rule R171): the payload read, then the rest. -/
def stepsWith (span : CrcSpan) (s : State) : Host.Outcome State Fault Refusal :=
  match timedRead 13 s with
  | (s, r) => if r.length < 13 then raise .timeout s else stepsVerify span (s.storePayload r)

end Sys2Proof.Machine
end

