-- ==== Sys2Proof/Machine/Commands.lean ====
section
/-! DEFINITION. The meanings of the five host commands (rules R170 to R175). Each begins with the dispatcher's filter
(rule R161) and ends by returning from `poll()`, SWITCH by entering report-only mode instead. -/

namespace Sys2Proof.Machine

/-- READY, with the block's `READY_MAGIC` (rules R8, R170). -/
def execReady (s : State) : Host.Outcome State Fault Refusal :=
  accept 0x00 s (readyWith s.params.readyMagic)

/-- STEPS, under the block's `STEPS_CRC_SPAN` (rules R8, R171). -/
def execSteps (s : State) : Host.Outcome State Fault Refusal :=
  accept 0x01 s (stepsWith s.params.stepsCrcSpan)

/-- EXEC_QUEUE (rule R173). -/
def execExecQueue (s : State) : Host.Outcome State Fault Refusal :=
  accept 0x02 s fun s => finish s.clearDefer

/-- GET_ACCELS (rule R174): rear before front, each high byte first (rule R96). -/
def execGetAccels (s : State) : Host.Outcome State Fault Refusal :=
  accept 0x03 s fun s =>
    finish (s.sendResponse 0x03 [hi8 s.accelRear, lo8 s.accelRear, hi8 s.accelFront, lo8 s.accelFront])

/-- SWITCH_TO_ACCEL_REPORT_MODE (rule R175): `phase <- E_ENTER`; `poll()` does not return to the phase's successor. -/
def execSwitchToAccelReportMode (s : State) : Host.Outcome State Fault Refusal :=
  accept 0x04 s fun s => .next { s with phase := .eEnter }

end Sys2Proof.Machine
end

