-- ==== Sys2Proof/Machine/Reserved.lean ====
section
/-! DEFINITION. The meanings of the reserved rows, opcodes 0x05 to 0xFF (rules R97, R98, R161): the opcode byte, already
consumed, is silently discarded in every mode. -/

namespace Sys2Proof.Machine

/-- RESERVED_05. -/
def execReserved05 (s : State) : Host.Outcome State Fault Refusal :=
  raise .protocolViolation s

/-- RESERVED_06_07. -/
def execReserved06To07 (_opcode : Byte) (s : State) : Host.Outcome State Fault Refusal :=
  raise .protocolViolation s

/-- RESERVED_08_0F. -/
def execReserved08To0F (_opcode : Byte) (s : State) : Host.Outcome State Fault Refusal :=
  raise .protocolViolation s

/-- RESERVED_10_1F. -/
def execReserved10To1F (_opcode : Byte) (s : State) : Host.Outcome State Fault Refusal :=
  raise .protocolViolation s

/-- RESERVED_20_3F. -/
def execReserved20To3F (_opcode : Byte) (s : State) : Host.Outcome State Fault Refusal :=
  raise .protocolViolation s

/-- RESERVED_40_7F. -/
def execReserved40To7F (_opcode : Byte) (s : State) : Host.Outcome State Fault Refusal :=
  raise .protocolViolation s

/-- RESERVED_80_FF. -/
def execReserved80ToFF (_opcode : Byte) (s : State) : Host.Outcome State Fault Refusal :=
  raise .protocolViolation s

end Sys2Proof.Machine
end

