-- ==== Sys2Proof/Machine/Dispatch.lean ====
section
/-! DEFINITION. One arm per instruction. -/

namespace Sys2Proof.Machine

def exec (i : Instr) (s : State) : Host.Outcome State Fault Refusal :=
  match i with
  | .ready => Sys2Proof.Machine.execReady s
  | .steps => Sys2Proof.Machine.execSteps s
  | .execQueue => Sys2Proof.Machine.execExecQueue s
  | .getAccels => Sys2Proof.Machine.execGetAccels s
  | .switchToAccelReportMode => Sys2Proof.Machine.execSwitchToAccelReportMode s
  | .reserved05 => Sys2Proof.Machine.execReserved05 s
  | .reserved06_07 b => Sys2Proof.Machine.execReserved06To07 b s
  | .reserved08_0F b => Sys2Proof.Machine.execReserved08To0F b s
  | .reserved10_1F b => Sys2Proof.Machine.execReserved10To1F b s
  | .reserved20_3F b => Sys2Proof.Machine.execReserved20To3F b s
  | .reserved40_7F b => Sys2Proof.Machine.execReserved40To7F b s
  | .reserved80_FF b => Sys2Proof.Machine.execReserved80ToFF b s

end Sys2Proof.Machine
end

