-- ==== Sys2Proof/Machine/Poll.lean ====
section
/-! DEFINITION. `poll()`, the block's command fetch (rule R160), and where it fetches from. -/

namespace Sys2Proof.Machine

/-- `poll()` (rule R160): one `RxTry()`; with RX empty it returns at once, else the byte is an opcode, whatever the
host meant it to be (rule R90), and its command runs. -/
def poll (s : State) : Host.Outcome State Fault Refusal :=
  match s.rxTry with
  | (s, none) => .next s.returnFromPoll
  | (s, some b) => exec (decodeOpcode b) s

/-- A phase that polls in the mode the state is in: the one it is in if it polls, else `N_POLL`, or `P_POLL_A` in
report-only mode. -/
def State.pollingPhase (s : State) : Phase :=
  if s.phase.polls then s.phase else if s.reportOnly then .pPollA else .nPoll

/-- The bytes placed at the front of RX, and the sequencer at a `poll()`. -/
def State.withFetchBytes (s : State) (bytes : List Byte) : State :=
  { s with phase := s.pollingPhase, rx := bytes ++ s.rx }

end Sys2Proof.Machine
end

