-- ==== Sys2Proof/Machine/Step.lean ====
section
/-! DEFINITION. One step of the sequencer: the operation of the current phase (rule R30's table). -/

namespace Sys2Proof.Machine

/-- The operation of each phase (rule R30). -/
def step (s : State) : Host.Outcome State Fault Refusal :=
  match s.phase with
  | .bIdlePins => idlePins s
  | .bCheckReady => checkReady s
  | .bInit => initAccel s
  | .bBaseline => baseline s
  | .bFinish => finishBringup s
  | .nWait => waitSentinel s
  | .nSend i => sendByte i s
  | .nPoll => poll s
  | .eEnter => enterReportOnly s
  | .pSampleRear => reportRear s
  | .pPollA => poll s
  | .pSampleFront => reportFront s
  | .pPollB => poll s

/-- The state with an instruction word of the opcode table at the front of RX and the sequencer at a `poll()`: the
host's load of a program, which the block cannot do itself (assumption log, entry 7). -/
def State.withFetchWord (s : State) (nbits w : Nat) : State :=
  s.withFetchBytes (tableBytes nbits w)

end Sys2Proof.Machine
end

