-- ==== Sys2Proof/Machine/HostRequest.lean ====
section
/-! DEFINITION. The bytes a host puts on RX: the requests of rules R91 to R93 in the notation of rule R104. The block
does not use this file; claims about requests do. -/

namespace Sys2Proof.Machine

/-- One line of a host program (rule R104); `FPGA_SYNC` and `TIMEOUT` are the environment's moves, not bytes. -/
inductive HostLine where
  | ready
  | steps (payload : Command)
  | execQueue
  | getAccels
  | switchToAccelReportMode
  | raw (bytes : List Byte)
  deriving DecidableEq, Repr

/-- The checksum of a STEPS request (rule R93). -/
def requestChecksum (span : CrcSpan) (payload : Command) : Half :=
  match span with
  | .opcodeAndPayload => crc16 (0x01 :: payload.toList)
  | .payloadOnly => crc16 payload.toList

/-- What a line assembles to (rules R91, R92, R104). -/
def HostLine.assemble (span : CrcSpan) : HostLine → List Byte
  | .ready => [0x00]
  | .steps p => 0x01 :: p.toList ++ [hi8 (requestChecksum span p), lo8 (requestChecksum span p)]
  | .execQueue => [0x02]
  | .getAccels => [0x03]
  | .switchToAccelReportMode => [0x04]
  | .raw bytes => bytes

end Sys2Proof.Machine
end

