-- ==== Sys2Proof/Safety.lean ====
section
/-! DEFINITION. What claims about the block speak of: the queue's contents, the invariant of a run, what a sensor
answers, and when the host feeds a timed read. -/

namespace Sys2Proof.Machine

/-! ### The queue -/

/-- The slot `k` places after the oldest one (rule R27 (e)). -/
def State.slotAt (s : State) (k : Nat) : Fin 200 := ⟨(s.head.val + k) % 200, by omega⟩

/-- The queued Commands, oldest first (rule R27 (e)); `none` for a slot that has a byte never written. -/
def State.queued (s : State) : List (Option Command) :=
  (List.range s.count).map fun k => s.qmem.readSlot (s.slotAt k)

/-- The queue invariants (rule R27 (a), (d), (e)) and QMEM's canonical form. -/
structure QueueInv (s : State) : Prop where
  memWf : s.qmem.wf
  countLe : s.count ≤ 200
  tailEq : s.tail = s.slotAt s.count
  written : ∀ k < s.count, s.qmem.slotWritten (s.slotAt k) = true

/-- What is asked of the queue: one append or one pop (rule R120). -/
inductive QueueOp where
  | append (cmd : Command)
  | pop
  deriving DecidableEq, Repr

/-- What the queue answers: whether an append was accepted, or what a pop returned (rule R120). -/
inductive QueueAnswer where
  | accepted (b : Bool)
  | popped (cmd : Option Command)
  deriving DecidableEq, Repr

/-- A sequence of operations on the block's queue and its answers. -/
def runQueue : List QueueOp → State → State × List QueueAnswer
  | [], s => (s, [])
  | .append cmd :: ops, s =>
    ((runQueue ops (s.queueTryAppend cmd).1).1,
      .accepted (s.queueTryAppend cmd).2 :: (runQueue ops (s.queueTryAppend cmd).1).2)
  | .pop :: ops, s =>
    ((runQueue ops s.queueTryPop.1).1, .popped s.queueTryPop.2 :: (runQueue ops s.queueTryPop.1).2)

/-- The same sequence on the FIFO of rule R120: a list with a capacity, appended at its end and popped at its front. -/
def runFifo : List QueueOp → List Command → List Command × List QueueAnswer
  | [], l => (l, [])
  | .append cmd :: ops, l =>
    if l.length < 200 then
      ((runFifo ops (l ++ [cmd])).1, .accepted true :: (runFifo ops (l ++ [cmd])).2)
    else ((runFifo ops l).1, .accepted false :: (runFifo ops l).2)
  | .pop :: ops, [] => ((runFifo ops []).1, .popped none :: (runFifo ops []).2)
  | .pop :: ops, c :: l => ((runFifo ops l).1, .popped (some c) :: (runFifo ops l).2)

/-! ### The invariant of a run -/

/-- The phases of the report-only loop proper, `P_*` (rule R47 (b)). -/
def Phase.inReportLoop : Phase → Bool
  | .pSampleRear => true
  | .pPollA => true
  | .pSampleFront => true
  | .pPollB => true
  | _ => false

/-- The bus roles a phase can begin in (rule R47 (e), rules R241 to R247). -/
def Phase.roleOk (p : Phase) (r : BusRole) : Prop :=
  match p with
  | .bIdlePins => r = .unconfigured
  | .bCheckReady => r = .unconfigured
  | .bInit => r = .unconfigured
  | .bBaseline => r = .master
  | .bFinish => r = .master
  | .eEnter => r ≠ .master
  | .nWait => r = .slave
  | .nSend _ => r = .slave
  | .nPoll => r = .slave
  | .pSampleRear => r = .master
  | .pPollA => r = .master
  | .pSampleFront => r = .master
  | .pPollB => r = .master

/-- The level of `PIN_ACCEL_INIT` at the start of a phase (rules R241, R243, R245, R247, R248). -/
def Phase.initLevel : Phase → Option Level
  | .bIdlePins => none
  | .bBaseline => some .asserted
  | .bFinish => some .asserted
  | .pSampleRear => some .asserted
  | .pPollA => some .asserted
  | .pSampleFront => some .asserted
  | .pPollB => some .asserted
  | _ => some .deasserted

/-- A reading is `ACCEL_RESET` or at most 0x07FF (rule R47 (f)). -/
def readingOk (params : OpenParams) (v : Half) : Prop := v = params.accelReset ∨ v.toNat ≤ 0x07FF

/-- The slave transfer in progress: only in `N_SEND(i)`, sending frame byte `i`, and not yet complete (rules R37,
R204). -/
def transferOk (s : State) : Prop :=
  ∀ b, s.xfer = some b → s.xferDone = false ∧ ∃ i, s.phase = .nSend i ∧ b = s.frameBuf.get i

/-- The invariant of a run between two steps (rules R27, R47). -/
structure Inv (s : State) : Prop where
  queue : QueueInv s
  flag : s.reportOnly = s.phase.inReportLoop
  role : s.phase.roleOk s.busRole
  rear : readingOk s.params s.accelRear
  front : readingOk s.params s.accelFront
  selects : s.phase ≠ .bIdlePins → s.pinCsRear = .deasserted ∧ s.pinCsFront = .deasserted
  initPin : ∀ l, s.phase.initLevel = some l → s.pinAccelInit = l
  enable : s.phase ≠ .bIdlePins → (s.busRole = .slave → s.pinFpgaEnable = .asserted) ∧
    (s.phase.mode = .bringup → s.pinFpgaEnable = .deasserted)
  transfer : transferOk s

/-- How many bytes of `frameBuf` the FPGA has received of the frame in transmission (rule R204). -/
def State.sentOfFrame (s : State) : Nat :=
  match s.phase with
  | .nSend i => i.val
  | _ => 0

/-- FPGA_OUT is a sequence of whole frames, each with the fixed first and last bytes, followed by the bytes sent so far
of the frame in transmission (rules R73 (b), R100, R204). -/
def WholeFrames (s : State) : Prop :=
  (∃ bodies : List Command,
    s.fpgaOut = (bodies.map fun c => (frameOf c).toList).flatten ++ s.frameBuf.toList.take s.sentOfFrame) ∧
  (∀ i, s.phase = .nSend i → ∃ c, s.frameBuf = frameOf c)

/-- Each sensor has received whole transactions `10 DUMMY DUMMY` (rules R43, R103). -/
def WholeTransactions (s : State) : Prop :=
  (∃ k, s.sensorOutRear = (List.replicate k [0x10, Config.dummyByte, Config.dummyByte]).flatten) ∧
  ∃ k, s.sensorOutFront = (List.replicate k [0x10, Config.dummyByte, Config.dummyByte]).flatten

/-! ### The sensors -/

/-- The bytes a sensor is going to answer. -/
def State.answers (ch : Channel) (s : State) : List Byte :=
  match ch with
  | .rear => s.rearAnswers
  | .front => s.frontAnswers

/-- The `j`-th byte a sensor answers from a state on, if no other byte is drawn meanwhile. -/
def State.answer (ch : Channel) (s : State) (j : Nat) : Byte :=
  (s.answers ch).getD j (Config.freeByte (s.draws + (j - (s.answers ch).length)))

/-- The `k`-th reading of a sample: the answers to the two dummy bytes of transaction `k` (rules R103, R221). -/
def State.reading (ch : Channel) (s : State) (k : Nat) : Half :=
  joinBytes (s.answer ch (3 * k + 1)) (s.answer ch (3 * k + 2))

/-- The level of a sensor's chip-select. -/
def State.select (ch : Channel) (s : State) : Level :=
  match ch with
  | .rear => s.pinCsRear
  | .front => s.pinCsFront

/-- What a sensor has received (rule R43). -/
def State.sensorOut (ch : Channel) (s : State) : List Byte :=
  match ch with
  | .rear => s.sensorOutRear
  | .front => s.sensorOutFront

/-- The other sensor. -/
def Channel.other : Channel → Channel
  | .rear => .front
  | .front => .rear

/-- The 17 contributions of a sample, added (rules R222, R223). -/
def State.sampleSum (ch : Channel) (s : State) : Nat :=
  ((List.range 17).map fun k => (s.reading ch k).toNat / 32).sum

/-! ### The host and the FPGA -/

/-- The host feeds a read of `k` bytes: no one of `k` calls of `RxTry()` in a row finds RX empty (rule R164 (a)). -/
def State.feeds (k : Nat) (s : State) : Prop := ∀ j < k, j < (s.envTurns (j + 1)).rx.length

/-- No turn to come brings a byte from the host. -/
def State.hostSilent (s : State) : Prop := ∀ ms ∈ s.env, hostBytes ms = []

/-- A move by which the FPGA writes BUSDATA or clocks a transfer. -/
def EnvMove.onBus : EnvMove → Bool
  | .fpgaWrite _ => true
  | .fpgaClock _ => true
  | .hostByte _ => false
  | .fpgaReady _ => false

/-- No turn to come brings a move of the FPGA on the bus. -/
def State.fpgaSilent (s : State) : Prop := ∀ ms ∈ s.env, ∀ m ∈ ms, m.onBus = false


end Sys2Proof.Machine

namespace Sys2Proof

/-- The instructions of the reserved range, opcodes 0x05 to 0xFF (rules R97, R98). -/
def Instr.reserved : Instr → Bool
  | .ready => false
  | .steps => false
  | .execQueue => false
  | .getAccels => false
  | .switchToAccelReportMode => false
  | .reserved05 => true
  | .reserved06_07 _ => true
  | .reserved08_0F _ => true
  | .reserved10_1F _ => true
  | .reserved20_3F _ => true
  | .reserved40_7F _ => true
  | .reserved80_FF _ => true

end Sys2Proof
end

