-- ==== Sys2Proof/Certificates/Slice0/Obligations.lean ====
section
/-! DEFINITION. The statements about the model, for the provers. Where a statement gives a state as
`{ s.envTurns k with … }`, the environment has had `k` turns (one before each primitive call, rule R68) and every
field that is not listed is what those turns leave: RX with the host's bytes appended, BUSDATA, XFER_DONE, FPGA_OUT and
PIN_FPGA_READY as the FPGA's moves leave them, and everything else as in `s`. -/

open Sys2Proof Sys2Proof.Machine

/-! ### Encoding -/

/-- Every well-formed instruction, with every operand, is decoded from its own encoding, and the bytes after it are left
(rules R90, R97). -/
def Obligations.DecodeUndoesEncode : Prop :=
  ∀ (i : Instr) (rest : List Byte), i.wellFormed = true → decode (encode i ++ rest) = .ok (i, rest)

/-- Each opcode byte belongs to exactly one well-formed instruction, the one the decoder answers: the twelve rows partition
the 256 values (rule R97). -/
def Obligations.OpcodeMapPartitions : Prop :=
  ∀ (b : Byte) (i : Instr), (i.wellFormed = true ∧ encodeOpcode i = b) ↔ i = decodeOpcode b

/-- The five opcodes, the ends of each reserved row, and a STEPS request, whose 15 operand bytes are not decoded (rules
R92, R97). -/
def Obligations.SpecWordsDecode : Prop :=
  decodeTableWord 8 0x00 = some .ready ∧
  decodeTableWord 8 0x01 = some .steps ∧
  decodeTableWord 8 0x02 = some .execQueue ∧
  decodeTableWord 8 0x03 = some .getAccels ∧
  decodeTableWord 8 0x04 = some .switchToAccelReportMode ∧
  decodeTableWord 8 0x05 = some .reserved05 ∧
  decodeTableWord 8 0x06 = some (.reserved06_07 0x06) ∧
  decodeTableWord 8 0x07 = some (.reserved06_07 0x07) ∧
  decodeTableWord 8 0x08 = some (.reserved08_0F 0x08) ∧
  decodeTableWord 8 0x0F = some (.reserved08_0F 0x0F) ∧
  decodeTableWord 8 0x10 = some (.reserved10_1F 0x10) ∧
  decodeTableWord 8 0x1F = some (.reserved10_1F 0x1F) ∧
  decodeTableWord 8 0x20 = some (.reserved20_3F 0x20) ∧
  decodeTableWord 8 0x3F = some (.reserved20_3F 0x3F) ∧
  decodeTableWord 8 0x40 = some (.reserved40_7F 0x40) ∧
  decodeTableWord 8 0x7F = some (.reserved40_7F 0x7F) ∧
  decodeTableWord 8 0x80 = some (.reserved80_FF 0x80) ∧
  decodeTableWord 8 0xFF = some (.reserved80_FF 0xFF) ∧
  decode [0x01, 0x01, 0x02, 0x03, 0x04, 0x05, 0x06, 0x07, 0x08, 0x09, 0x0A, 0x0B, 0x0C, 0x0D, 0x03, 0xAA] =
    .ok (.steps, [0x01, 0x02, 0x03, 0x04, 0x05, 0x06, 0x07, 0x08, 0x09, 0x0A, 0x0B, 0x0C, 0x0D, 0x03, 0xAA]) ∧
  decode [] = .error .noByte

/-! ### Reset -/

/-- The power-on values that spec/10_state.md gives (rule R46), for every value of the open parameters, and the defaults
that rule R8 recommends for these. That the parameters set `defer` and the readings, the empty queue and the empty RX
are decisions of the spec (D21, D22, D23, D25; assumption log, entry 9 for the defaults). That QMEM lists no byte is the
model's choice (assumption log, entry 3): the spec gives QMEM no value (rule R46, U2). The registers whose value only
the assumption log names (entries 2, 4) are not part of the statement. -/
def Obligations.ResetIsPowerOn : Prop :=
  (∀ p : OpenParams,
    (State.resetWith p).phase = .bIdlePins ∧ (State.resetWith p).phase.mode = .bringup ∧
    (State.resetWith p).reportOnly = false ∧ (State.resetWith p).busRole = .unconfigured ∧
    (State.resetWith p).defer = p.deferReset ∧
    (State.resetWith p).accelRear = p.accelReset ∧ (State.resetWith p).accelFront = p.accelReset ∧
    (State.resetWith p).head = 0 ∧ (State.resetWith p).tail = 0 ∧ (State.resetWith p).count = 0 ∧
    (State.resetWith p).queued = [] ∧ (∀ a, (State.resetWith p).qmem.read a = none) ∧
    (State.resetWith p).rx = [] ∧ (State.resetWith p).tx = [] ∧ (State.resetWith p).fpgaOut = [] ∧
    (State.resetWith p).sensorOutRear = [] ∧ (State.resetWith p).sensorOutFront = [] ∧
    (State.resetWith p).params = p) ∧
  State.reset = State.resetWith {
    readyMagic := 0x40, stepsCrcSpan := .opcodeAndPayload, deferGateEffective := true, deferReset := true
    accelReset := 0x0000 }

/-- The invariants hold after power-on, whatever the open parameters are and whatever the environment is going to do. -/
def Obligations.ResetMeetsInv : Prop :=
  ∀ (p : OpenParams) (env : List (List EnvMove)) (rear front : List Byte),
    Inv { State.resetWith p with env := env, rearAnswers := rear, frontAnswers := front } ∧
    WholeFrames { State.resetWith p with env := env, rearAnswers := rear, frontAnswers := front } ∧
    WholeTransactions { State.resetWith p with env := env, rearAnswers := rear, frontAnswers := front }

/-! ### The whole machine -/

/-- Every step keeps the invariant of a run: the queue invariants and QMEM's canonical form (rule R27), the mode flag,
the bus role and the ranges of the readings (rule R47), the levels of the output pins at the start of each phase (rules
R221, R241 to R248), and, of the model's field `xfer`, that a transfer in progress is the one of the present frame byte
and not yet complete (rules R37, R204; assumption log, entry 6). -/
def Obligations.StepKeepsInv : Prop :=
  ∀ s t : State, Inv s → step s = .next t → Inv t

/-- Every step keeps FPGA_OUT a sequence of whole frames, in order, and the part sent of the present one (rules R73 (b),
R100, R204). -/
def Obligations.StepKeepsWholeFrames : Prop :=
  ∀ s t : State, Inv s → WholeFrames s → step s = .next t → WholeFrames t

/-- Every step keeps what each sensor has received a sequence of whole transactions (rules R43, R103, R220). -/
def Obligations.StepKeepsWholeTransactions : Prop :=
  ∀ s t : State, Inv s → WholeTransactions s → step s = .next t → WholeTransactions t

/-- The block never halts: from every state that meets the invariant it runs for any number of steps, with no fault and no
refusal (rule R332). -/
def Obligations.RunNeverStops : Prop :=
  ∀ (s : State) (k : Nat), Inv s → ∃ t : State, Sys2Proof.core.run k s = .next t ∧ Inv t

/-- A step at a polling phase is one turn of the environment, the opcode byte taken off RX, and `exec` of the instruction
it decodes to; with RX empty nothing but the phase changes (rule R160). -/
def Obligations.StepRunsDecoded : Prop :=
  (∀ (s : State) (i : Instr) (rest : List Byte), s.phase.polls = true → decode s.envTurn.rx = .ok (i, rest) →
    i.wellFormed = true ∧ step s = exec i { s.envTurn with rx := rest }) ∧
  (∀ (s : State) (b : Byte) (rest : List Byte), s.rx = b :: rest →
    decode s.envTurn.rx = .ok (decodeOpcode b, rest ++ hostBytes s.nextMoves)) ∧
  (∀ s : State, s.phase.polls = true → s.envTurn.rx = [] →
    step s = .next { s.envTurn with phase := s.phase.afterPoll })

/-- No other phase takes a byte from RX or sends one on TX (rules R160, R165): RX is as some turns of the environment
leave it. -/
def Obligations.OtherPhasesFetchNothing : Prop :=
  ∀ s t : State, s.phase.polls = false → step s = .next t →
    t.tx = s.tx ∧ ∃ k, t.env = s.env.drop k ∧ t.rx = (s.envTurns k).rx

/-- The phase changes only as the table of rule R30 says, and from `N_POLL` to `E_ENTER` exactly for opcode 0x04 (rule
R251). That a step of `N_SEND(i)` may also leave the phase as it is, while the FPGA has not clocked, is the model's form
of the hold of rule R37 (assumption log, entry 6); that the boot-time diversion goes to `E_ENTER` is the spec's decision
D27. -/
def Obligations.PhaseTransitions : Prop :=
  ∀ s t : State, Inv s → step s = .next t →
    (s.phase = .bIdlePins → t.phase = .bCheckReady) ∧
    (s.phase = .bCheckReady →
      t.phase = if s.envTurn.pinFpgaReady = .asserted then .bInit else .eEnter) ∧
    (s.phase = .bInit → t.phase = .bBaseline) ∧
    (s.phase = .bBaseline → t.phase = .bFinish) ∧
    (s.phase = .bFinish → t.phase = .nWait) ∧
    (s.phase = .nWait → t.phase = if s.envTurn.busData = 0x5A then .nSend 0 else .nWait) ∧
    (∀ i, s.phase = .nSend i → t.phase = .nSend i ∨ t.phase = if i.val = 18 then .nPoll else .nSend (i + 1)) ∧
    (s.phase = .nPoll → t.phase = if s.envTurn.rx.head? = some 0x04 then .eEnter else .nWait) ∧
    (s.phase = .eEnter → t.phase = .pSampleRear) ∧
    (s.phase = .pSampleRear → t.phase = .pPollA) ∧
    (s.phase = .pPollA → t.phase = .pSampleFront) ∧
    (s.phase = .pSampleFront → t.phase = .pPollB) ∧
    (s.phase = .pPollB → t.phase = .pSampleRear)

/-- REPORT_ONLY is terminal: no step leaves it, and in it the queue, the defer flag, FPGA_OUT and PIN_FPGA_ENABLE are frozen
(rules R47 (c), (g), R248, R250). -/
def Obligations.ReportOnlyIsTerminal : Prop :=
  ∀ s t : State, Inv s → s.phase.mode = .reportOnly → step s = .next t →
    t.phase.mode = .reportOnly ∧ t.busRole = .master ∧ t.reportOnly = true ∧
    t.head = s.head ∧ t.tail = s.tail ∧ t.count = s.count ∧ (∀ a, t.qmem.read a = s.qmem.read a) ∧
    t.defer = s.defer ∧ t.fpgaOut = s.fpgaOut ∧ t.pinFpgaEnable = s.pinFpgaEnable

/-- The one-way parts of the state: `defer` is never set again, `reportOnly` is never cleared, what was sent stays sent
(rules R31, R32, R42, R43), and the open parameters of a block never change (rule R8). -/
def Obligations.OneWayState : Prop :=
  ∀ s t : State, step s = .next t →
    t.params = s.params ∧ (s.defer = false → t.defer = false) ∧ (s.reportOnly = true → t.reportOnly = true) ∧
    (∃ l, t.tx = s.tx ++ l) ∧ (∃ l, t.fpgaOut = s.fpgaOut ++ l) ∧
    (∃ l, t.sensorOutRear = s.sensorOutRear ++ l) ∧ ∃ l, t.sensorOutFront = s.sensorOutFront ++ l

/-- A turn of the environment: HOST appends to RX, and while `busRole` is not `SLAVE` the FPGA touches neither BUSDATA nor
XFER_DONE nor FPGA_OUT; nothing else of the block is written at any time (rules R68, R331). -/
def Obligations.EnvironmentLiberties : Prop :=
  ∀ s : State,
    s.envTurn = { s with
      env := s.env.tail, rx := s.rx ++ hostBytes s.nextMoves, pinFpgaReady := s.envTurn.pinFpgaReady
      busData := s.envTurn.busData, xferDone := s.envTurn.xferDone, fpgaOut := s.envTurn.fpgaOut } ∧
    (s.busRole ≠ .slave → s.envTurn.busData = s.busData ∧ s.envTurn.xferDone = s.xferDone ∧
      s.envTurn.fpgaOut = s.fpgaOut) ∧
    (s.xfer = none → s.envTurn.xferDone = s.xferDone ∧ s.envTurn.fpgaOut = s.fpgaOut)

/-! ### The instructions -/

/-- READY (rule R170): in NORMAL, whatever READY_MAGIC is, the response is the magic and the checksum over the opcode
and the magic, and nothing else changes but `crc` and `buf[0]`; where it is 0x40 the response is `40 55 CB`; in
REPORT_ONLY READY is discarded. -/
def Obligations.ReadyAnswers : Prop :=
  (∀ s : State, s.reportOnly = false → exec .ready s = .next { s.envTurn with
    crc := crc16 [0x00, s.params.readyMagic]
    buf := s.buf.set 0 0x00
    tx := s.tx ++ [s.params.readyMagic, hi8 (crc16 [0x00, s.params.readyMagic]), lo8 (crc16 [0x00, s.params.readyMagic])]
    phase := s.phase.afterPoll }) ∧
  (∀ s : State, s.reportOnly = false → s.params.readyMagic = 0x40 → exec .ready s = .next { s.envTurn with
    crc := 0x55CB
    buf := s.buf.set 0 0x00
    tx := s.tx ++ [0x40, 0x55, 0xCB]
    phase := s.phase.afterPoll }) ∧
  ∀ s : State, s.reportOnly = true → exec .ready s = .next { s with phase := s.phase.afterPoll }

/-- EXEC_QUEUE (rule R173): in NORMAL it clears `defer`, writes `buf[0]` and sends nothing; repeating it changes no more;
no instruction sets `defer`. In REPORT_ONLY it is discarded (rule R161). The last two clauses are about the frame builder
alone (rule R203): with `defer` false it builds with the gate what it builds without, and with `DEFER_GATE_EFFECTIVE` false
the flag does not influence it. That the gate acts in the frame builder is the spec's decision D20 (assumption log, entries
9 and 13); that Commands then leave the queue is SentinelBuildsFrame's. -/
def Obligations.ExecQueueClearsDefer : Prop :=
  (∀ s : State, s.reportOnly = false → exec .execQueue s = .next { s with
    defer := false
    buf := s.buf.set 0 0x02
    phase := s.phase.afterPoll }) ∧
  (∀ s : State, s.reportOnly = true → exec .execQueue s = .next { s with phase := s.phase.afterPoll }) ∧
  (∀ s t u : State, exec .execQueue s = .next t → exec .execQueue t = .next u → u = { t with phase := u.phase }) ∧
  (∀ (i : Instr) (s t : State), exec i s = .next t → t.defer = true → s.defer = true) ∧
  (∀ s : State, s.defer = false → buildFrameWith true s = buildFrameWith false s) ∧
  ∀ (s : State) (d : Bool), buildFrameWith false { s with defer := d } =
    ({ (buildFrameWith false s).1 with defer := d }, (buildFrameWith false s).2)

/-- GET_ACCELS (rule R174), in every mode: the two readings and the checksum over the opcode and the four bytes; no fresh
sample, and nothing else changes but `crc` and `buf[0]`. Rear first is the spec's decision D13. -/
def Obligations.GetAccelsAnswers : Prop :=
  ∀ s : State, exec .getAccels s = .next { s.envTurn with
    crc := crc16 [0x03, hi8 s.accelRear, lo8 s.accelRear, hi8 s.accelFront, lo8 s.accelFront]
    buf := s.buf.set 0 0x03
    tx := s.tx ++ [hi8 s.accelRear, lo8 s.accelRear, hi8 s.accelFront, lo8 s.accelFront,
      hi8 (crc16 [0x03, hi8 s.accelRear, lo8 s.accelRear, hi8 s.accelFront, lo8 s.accelFront]),
      lo8 (crc16 [0x03, hi8 s.accelRear, lo8 s.accelRear, hi8 s.accelFront, lo8 s.accelFront])]
    phase := s.phase.afterPoll }

/-- SWITCH_TO_ACCEL_REPORT_MODE (rule R175): in NORMAL the phase becomes `E_ENTER` and nothing else changes but `buf[0]`; in
REPORT_ONLY it is discarded. -/
def Obligations.SwitchEntersReportOnly : Prop :=
  (∀ s : State, s.reportOnly = false →
    exec .switchToAccelReportMode s = .next { s with phase := .eEnter, buf := s.buf.set 0 0x04 }) ∧
  ∀ s : State, s.reportOnly = true →
    exec .switchToAccelReportMode s = .next { s with phase := s.phase.afterPoll }

/-- The reserved instructions, RESERVED_05 to RESERVED_80_FF, in every mode: the opcode byte is gone and nothing else
happens (rules R98, R161). -/
def Obligations.ReservedOpcodesDiscarded : Prop :=
  ∀ (i : Instr) (s : State), i.reserved = true → exec i s = .next { s with phase := s.phase.afterPoll }

/-- In REPORT_ONLY every instruction but GET_ACCELS is discarded, STEPS with none of its operand bytes read (rules R98,
R161). -/
def Obligations.ReportOnlyDiscardsOthers : Prop :=
  ∀ (i : Instr) (s : State), s.reportOnly = true → i ≠ .getAccels →
    exec i s = .next { s with phase := s.phase.afterPoll }

/-- ProtocolViolation (rules R98, R274): an opcode above 0x04 in any mode, or other than 0x03 in REPORT_ONLY, is
consumed, one byte, and nothing else is read, sent or changed; the phase goes on to its successor. -/
def Obligations.ViolationConsumesOneByte : Prop :=
  ∀ (s : State) (b : Byte) (rest : List Byte), s.phase.polls = true → s.envTurn.rx = b :: rest →
    (0x04 < b.toNat ∨ (s.reportOnly = true ∧ b ≠ 0x03)) →
    step s = .next { s.envTurn with rx := rest, phase := s.phase.afterPoll }

/-- STEPS, accepted (rule R171): when the 15 operand bytes are there as the two timed reads look for them, the checksum over
opcode and payload is right and the queue has room, the payload is stored in slot `tail` and `01 3E 1F` is sent. The
checksum is over the block's `STEPS_CRC_SPAN`, either of the two. -/
def Obligations.StepsAccepted : Prop :=
  ∀ (s : State) (p : Command) (hi lo : Byte), s.reportOnly = false → s.count ≠ 200 → s.feeds 15 →
    (s.envTurns 15).rx.take 15 = p.toList ++ [hi, lo] → joinBytes hi lo = requestChecksum s.params.stepsCrcSpan p →
    exec .steps s = .next { s.envTurns 16 with
      rx := (s.envTurns 16).rx.drop 15
      buf := (#v[(0x01 : Byte)] ++ p) ++ #v[hi, lo]
      crc := 0x3E1F
      interbyte := 0
      transaction := 0
      qmem := s.qmem.writeSlot s.tail p
      tail := s.tail + 1
      count := s.count + 1
      tx := s.tx ++ [0x01, 0x3E, 0x1F]
      phase := s.phase.afterPoll }

/-- STEPS to a full queue (rules R171, R273): the request is read and verified, the queue is unchanged, and `00 2E 3E` is
sent. -/
def Obligations.StepsQueueFull : Prop :=
  ∀ (s : State) (p : Command) (hi lo : Byte), s.reportOnly = false → s.count = 200 → s.feeds 15 →
    (s.envTurns 15).rx.take 15 = p.toList ++ [hi, lo] → joinBytes hi lo = requestChecksum s.params.stepsCrcSpan p →
    exec .steps s = .next { s.envTurns 16 with
      rx := (s.envTurns 16).rx.drop 15
      buf := (#v[(0x01 : Byte)] ++ p) ++ #v[hi, lo]
      crc := 0x2E3E
      interbyte := 0
      transaction := 0
      tx := s.tx ++ [0x00, 0x2E, 0x3E]
      phase := s.phase.afterPoll }

/-- STEPS with a wrong checksum (rules R272, R278): all 15 operand bytes are consumed, nothing is sent, the queue is
unchanged, full or not. -/
def Obligations.StepsChecksumMismatch : Prop :=
  ∀ (s : State) (p : Command) (hi lo : Byte), s.reportOnly = false → s.feeds 15 →
    (s.envTurns 15).rx.take 15 = p.toList ++ [hi, lo] → joinBytes hi lo ≠ requestChecksum s.params.stepsCrcSpan p →
    exec .steps s = .next { s.envTurns 15 with
      rx := (s.envTurns 15).rx.drop 15
      buf := (#v[(0x01 : Byte)] ++ p) ++ #v[hi, lo]
      crc := requestChecksum s.params.stepsCrcSpan p
      interbyte := 0
      transaction := 0
      phase := s.phase.afterPoll }

/-- STEPS to a host that falls silent with fewer than 15 operand bytes in RX, under whatever limits (rule R271): those bytes
are consumed, nothing is sent, and nothing changes but the bytes of `buf`, the counters and what the environment does. That
`crc` stays too when all 13 payload bytes but not both checksum bytes were there is the spec's decision D18, that a short
checksum read skips the fold (rule R144; assumption log, entry 13). A host that sends the rest later (rule R320) is not part
of the statement. -/
def Obligations.StepsTimeout : Prop :=
  ∀ s : State, s.reportOnly = false → s.hostSilent → s.rx.length < 15 →
    ∃ (m : Nat) (v : Vector Byte 16) (i t : Nat), exec .steps s = .next { s.envTurns m with
      rx := []
      buf := v
      interbyte := i
      transaction := t
      phase := s.phase.afterPoll }

/-- The request a host assembles for STEPS under the block's `STEPS_CRC_SPAN` is accepted, for both spans (rules R92, R93,
R171): its 15 operand bytes, being in RX, are consumed, the Command is the last of the queue, and `01 3E 1F` is sent. -/
def Obligations.AssembledStepsAccepted : Prop :=
  ∀ (p : Command) (s : State) (rest : List Byte), QueueInv s → s.count < 200 → s.reportOnly = false →
    0x01 :: s.rx = (HostLine.steps p).assemble s.params.stepsCrcSpan ++ rest →
    ∃ t : State, exec .steps s = .next t ∧
      t.tx = s.tx ++ [0x01, 0x3E, 0x1F] ∧ t.queued = s.queued ++ [some p] ∧ QueueInv t ∧
      (∃ more, t.rx = rest ++ more) ∧ t.phase = s.phase.afterPoll ∧ t.head = s.head ∧ t.defer = s.defer ∧
      t.accelRear = s.accelRear ∧ t.accelFront = s.accelFront ∧ t.reportOnly = s.reportOnly

/-- Where STEPS stores (rules R60, R121, R171): only an accepted STEPS writes QMEM, and every byte outside the 13 bytes from
`13 * tail` on reads as before; no other instruction writes QMEM. -/
def Obligations.OnlyStepsStoresAtTail : Prop :=
  (∀ s t : State, exec .steps s = .next t →
    (t.tail = s.tail ∧ t.count = s.count ∧ ∀ a, t.qmem.read a = s.qmem.read a) ∨
    (t.tail = s.tail + 1 ∧ t.count = s.count + 1 ∧ s.count ≠ 200 ∧
      (∀ a, a < 13 * s.tail.val ∨ 13 * s.tail.val + 13 ≤ a → t.qmem.read a = s.qmem.read a) ∧
      ∀ k : Fin 13, t.qmem.read (13 * s.tail.val + k.val) =
        some (t.buf.get
          ⟨k.val + 1, Nat.succ_lt_succ (Nat.lt_trans k.isLt (Nat.lt_add_of_pos_right (Nat.succ_pos 1)))⟩))) ∧
  ∀ (i : Instr) (s t : State), i ≠ .steps → exec i s = .next t →
    t.tail = s.tail ∧ t.count = s.count ∧ ∀ a, t.qmem.read a = s.qmem.read a

/-- What no instruction changes, and what only one does (rules R20 to R40): the readings, `head`, the mode flag, the bus
role, the output pins, the frame, the sampler's registers and the sensors' streams stay; `defer` is EXEC_QUEUE's, the
timeout counters are STEPS's; BUSDATA, XFER_DONE, FPGA_OUT and PIN_FPGA_READY are as some turns of the environment leave
them. -/
def Obligations.InstructionFrame : Prop :=
  ∀ (i : Instr) (s t : State), exec i s = .next t →
    t = { s with
      phase := t.phase, crc := t.crc, buf := t.buf, defer := t.defer, qmem := t.qmem, tail := t.tail
      count := t.count, interbyte := t.interbyte, transaction := t.transaction, rx := t.rx, tx := t.tx
      env := t.env, pinFpgaReady := t.pinFpgaReady, busData := t.busData, xferDone := t.xferDone
      fpgaOut := t.fpgaOut } ∧
    (i ≠ .execQueue → t.defer = s.defer) ∧
    (i ≠ .steps → t.interbyte = s.interbyte ∧ t.transaction = s.transaction) ∧
    (i ≠ .switchToAccelReportMode → t.phase = s.phase.afterPoll) ∧
    ∃ k, t.env = s.env.drop k ∧ t.pinFpgaReady = (s.envTurns k).pinFpgaReady ∧
      t.busData = (s.envTurns k).busData ∧ t.xferDone = (s.envTurns k).xferDone ∧
      t.fpgaOut = (s.envTurns k).fpgaOut

/-- No instruction ends in a fault or a refusal, in any state: every error is absorbed or answered (rule R282). -/
def Obligations.InstructionsAlwaysComplete : Prop :=
  ∀ (i : Instr) (s : State), ∃ t : State, exec i s = .next t

/-- Whatever an instruction sends is a whole response: a payload of one or four bytes, then the checksum, high byte first,
over the opcode and the payload; EXEC_QUEUE, SWITCH and the reserved instructions send nothing (rules R94, R95, R176). -/
def Obligations.ResponsesAreChecksummed : Prop :=
  ∀ (i : Instr) (s t : State), exec i s = .next t →
    t.tx = s.tx ∨
    ∃ payload : List Byte,
      t.tx = s.tx ++ payload ++ [hi8 (crc16 (encode i ++ payload)), lo8 (crc16 (encode i ++ payload))] ∧
      ((i = .ready ∧ payload = [s.params.readyMagic]) ∨
        (i = .steps ∧ (payload = [0x01] ∨ payload = [0x00])) ∨
        (i = .getAccels ∧ payload.length = 4))

/-- What `crc` and `buf` hold when a command begins is never seen: with other contents, every instruction does the same to
everything but `crc` and `buf` themselves (rules R21, R26, R147). -/
def Obligations.OldCrcAndBufUnseen : Prop :=
  ∀ (i : Instr) (s : State) (c : Half) (v : Vector Byte 16),
    ∃ (t : State) (c' : Half) (v' : Vector Byte 16), exec i s = .next t ∧
      exec i { s with crc := c, buf := v } = .next { t with crc := c', buf := v' }

/-! ### The timed read -/

/-- Everything a timed read of `n` bytes can do, under any limits (rules R163, R164): after at most
`n + TRANSACTION_LIMIT + 1` calls of `RxTry()` it is complete, or RX is empty and a limit is exceeded; the bytes it answers
were taken from the front of RX in order, and it changes nothing but RX and the counters. The bound on the calls and what
counts as exceeding a limit rest on the spec's decision D8 (counters from 0 in each read, only empty polls counted, compared
after the increment; assumption log, entry 13). -/
def Obligations.TimedReadOutcomes : Prop :=
  ∀ (interLimit transLimit n : Nat) (s : State),
    ∃ (m : Nat) (r rx : List Byte) (i t : Nat), m ≤ n + transLimit + 1 ∧
      timedReadWith interLimit transLimit n s =
        ({ s.envTurns m with rx := rx, interbyte := i, transaction := t }, r) ∧
      r ++ rx = (s.envTurns m).rx ∧
      (r.length = n ∨ (r.length < n ∧ rx = [] ∧ (interLimit < i ∨ transLimit < t)))

/-- A read whose `n` bytes are in RX completes after `n` calls of `RxTry()` and cannot time out, under any limits (rule
R164 (a)). -/
def Obligations.TimedReadCompletes : Prop :=
  ∀ (interLimit transLimit n : Nat) (s : State), n ≤ s.rx.length →
    timedReadWith interLimit transLimit n s =
      ({ s.envTurns n with rx := (s.envTurns n).rx.drop n, interbyte := 0, transaction := 0 }, s.rx.take n)

/-! ### The Integrity Layer -/

/-- `CrcReset` (rule R140): from any state, `crc` is 0xFFFF afterwards, and nothing else is written. -/
def Obligations.CrcResetReseeds : Prop :=
  ∀ s : State, s.crcReset = { s with crc := 0xFFFF }

/-- `CrcFold` (rule R141): fresh mode reseeds to 0xFFFF, carry mode does not; each byte, in ascending order, goes into
the high byte and is followed by 8 rounds, each testing bit 15 before the shift; nothing but `crc` is written. -/
def Obligations.CrcFoldFollowsRounds : Prop :=
  (∀ s : State, s.crcFold [] false = { s with crc := 0xFFFF } ∧ s.crcFold [] true = s) ∧
  (∀ (s : State) (bytes : List Byte) (b : Byte) (carry : Bool),
    s.crcFold (bytes ++ [b]) carry = { s with
      crc := Nat.iterate (fun a : Half => if 0x8000 ≤ a.toNat then (a + a) ^^^ 0x1021 else a + a) 8
        ((s.crcFold bytes carry).crc ^^^ joinBytes b 0x00) }) ∧
  ∀ s : State, (s.crcFold [0x00] false).crc = 0xE1F0 ∧
    ((s.crcFold [0x00] false).crcFold [0x40] true).crc = 0x55CB

/-- Fresh then carry is one fresh fold of the concatenation (rule R145), and the catalogue check value of rule R143. -/
def Obligations.CrcComposition : Prop :=
  (∀ (s : State) (a b : List Byte), (s.crcFold a false).crcFold b true = s.crcFold (a ++ b) false) ∧
  (∀ (s : State) (a b : List Byte), ((s.crcFold a false).crcFold b true).crc = crc16 (a ++ b)) ∧
  crc16 [0x31, 0x32, 0x33, 0x34, 0x35, 0x36, 0x37, 0x38, 0x39] = 0x29B1

/-- A message followed by its own checksum, high byte first, folds to zero (rule R148). -/
def Obligations.ChecksumResidueIsZero : Prop :=
  ∀ bytes : List Byte, crc16 (bytes ++ [hi8 (crc16 bytes), lo8 (crc16 bytes)]) = 0x0000

/-- Changing one byte anywhere in the covered span, and so flipping any one bit of it, changes the checksum; and so does
changing the accumulator the span begins with (rule R148). -/
def Obligations.SingleErrorsAreDetected : Prop :=
  (∀ (front back : List Byte) (b b' : Byte), b ≠ b' → crc16 (front ++ b :: back) ≠ crc16 (front ++ b' :: back)) ∧
  ∀ (acc acc' : Half) (bytes : List Byte), acc ≠ acc' → crcFrom acc bytes ≠ crcFrom acc' bytes

/-! ### The Command Queue -/

/-- `QueueTryAppend` (rule R121): false and nothing changed exactly when 200 Commands are queued; else true, and the queue
holds what it held and then the Command. -/
def Obligations.QueueAppend : Prop :=
  ∀ (s : State) (cmd : Command),
    (s.count = 200 → s.queueTryAppend cmd = (s, false)) ∧
    (s.count ≠ 200 → QueueInv s →
      (s.queueTryAppend cmd).2 = true ∧ (s.queueTryAppend cmd).1.queued = s.queued ++ [some cmd] ∧
      QueueInv (s.queueTryAppend cmd).1 ∧
      (s.queueTryAppend cmd).1 = { s with
        qmem := s.qmem.writeSlot s.tail cmd
        tail := ⟨(s.tail.val + 1) % 200, Nat.mod_lt _ (Nat.succ_pos 199)⟩
        count := s.count + 1 })

/-- `QueueTryPop` and `QueueIsEmpty` (rules R120, R122, R123): `empty` and nothing changed exactly when no Command is
queued; else, in every state, the bytes of slot `head`, of which only bytes never written are free (assumption log,
entry 3), with nothing changed but `head`, `count` and the count of free bytes; and under the queue invariants the
oldest Command, the queue then holding the others in order. -/
def Obligations.QueuePop : Prop :=
  ∀ s : State,
    (s.queueIsEmpty = true ↔ s.count = 0) ∧ (s.count = 0 → s.queueTryPop = (s, none)) ∧
    (s.count ≠ 0 → ∃ (cmd : Command) (d : Nat),
      s.queueTryPop = ({ s with
        head := ⟨(s.head.val + 1) % 200, Nat.mod_lt _ (Nat.succ_pos 199)⟩
        count := s.count - 1
        draws := d }, some cmd) ∧
      ∀ (i : Fin 13) (b : Byte), s.qmem.read (13 * s.head.val + i.val) = some b → cmd.get i = b) ∧
    (s.count ≠ 0 → QueueInv s → ∃ (cmd : Command) (t : State), s.queueTryPop = (t, some cmd) ∧
      s.queued = some cmd :: t.queued ∧ QueueInv t ∧
      t = { s with
        head := ⟨(s.head.val + 1) % 200, Nat.mod_lt _ (Nat.succ_pos 199)⟩
        count := s.count - 1 })

/-- The ring buffer of 2600 bytes refines the FIFO of capacity 200: any sequence of appends and pops gives the same
answers, and leaves the same Commands queued in the same order (rules R120, R126). -/
def Obligations.QueueRefinesFifo : Prop :=
  ∀ (ops : List QueueOp) (s : State) (l : List Command), QueueInv s → s.queued = l.map some →
    ∃ t : State, runQueue ops s = (t, (runFifo ops l).2) ∧ t.queued = (runFifo ops l).1.map some ∧ QueueInv t

/-! ### The FPGA Exchange Loop -/

/-- `N_WAIT` without the sentinel (rule R201): nothing changes but by the environment's turn. -/
def Obligations.OtherBytesAreNoSentinel : Prop :=
  ∀ s : State, s.phase = .nWait → s.envTurn.busData ≠ 0x5A → step s = .next s.envTurn

/-- `N_WAIT` on the sentinel, for both values of `DEFER_GATE_EFFECTIVE` (rules R201 to R203): BUSDATA is cleared; while
the gate holds or the queue is empty the frame is the filler and the queue is untouched (filler while the gate holds is
the spec's decision D20); else, in every state, a Command leaves the queue in the frame, and under the queue invariants
it is the oldest one and no free byte is drawn. -/
def Obligations.SentinelBuildsFrame : Prop :=
  (∀ s : State, s.phase = .nWait → s.envTurn.busData = 0x5A →
    ((s.params.deferGateEffective = true ∧ s.defer = true) ∨ s.count = 0) →
    step s = .next { s.envTurns 2 with busData := 0x00, frameBuf := frameOf Config.filler, phase := .nSend 0 }) ∧
  (∀ s : State, s.phase = .nWait → s.envTurn.busData = 0x5A →
    (s.params.deferGateEffective = false ∨ s.defer = false) → s.count ≠ 0 →
    ∃ (cmd : Command) (d : Nat), step s = .next { s.envTurns 2 with
      busData := 0x00, frameBuf := frameOf cmd, phase := .nSend 0, head := s.head + 1, count := s.count - 1, draws := d }) ∧
  ∀ s : State, QueueInv s → s.phase = .nWait → s.envTurn.busData = 0x5A →
    (s.params.deferGateEffective = false ∨ s.defer = false) → s.count ≠ 0 →
    ∃ cmd : Command, s.queued.head? = some (some cmd) ∧ step s = .next { s.envTurns 2 with
      busData := 0x00, frameBuf := frameOf cmd, phase := .nSend 0, head := s.head + 1, count := s.count - 1 }

/-- The frame is one fixed byte, the 13 bytes in order, five fixed bytes (rules R24, R100). -/
def Obligations.FrameLayout : Prop :=
  ∀ body : Command,
    (frameOf body).toList = Config.frameHead :: (body.toList ++ Config.frameTrail.toList) ∧
    (frameOf body).toList.length = 19 ∧
    ∀ k : Fin 13, (frameOf body).toList[k.val + 1]? = some (body.get k)

/-- One step of `N_SEND(i)` (rules R37, R204), from a state of a run: either the FPGA clocks, receives exactly frame
byte `i` and the phase goes on, or it does not and the sequencer holds with nothing sent. The queue, the frame, TX and
the flags are not touched, and RX only grows. -/
def Obligations.SendHoldsOrAdvances : Prop :=
  ∀ (s : State) (i : Fin 19), Inv s → s.phase = .nSend i → ∃ t : State, step s = .next t ∧
    ((t.phase = (if i.val = 18 then .nPoll else .nSend (i + 1)) ∧ t.xfer = none ∧ t.xferDone = true ∧
        t.fpgaOut = s.fpgaOut ++ [s.frameBuf.get i]) ∨
      (t.phase = .nSend i ∧ t.xfer = some (s.frameBuf.get i) ∧ t.xferDone = false ∧ t.fpgaOut = s.fpgaOut)) ∧
    (∃ k, (k = 1 ∨ k = 2) ∧ t = { s.envTurns k with
      phase := t.phase, xfer := t.xfer, xferDone := t.xferDone, fpgaOut := t.fpgaOut, busData := t.busData })

/-- A whole frame (rules R73 (b), R204): when the FPGA clocks each of the 19 transfers, 19 steps put the frame on
FPGA_OUT in ascending order and reach `N_POLL`; BUSDATA is the FPGA's last byte (the spec's G1, from general knowledge;
assumption log, entry 16) and nothing else changes. Said for an FPGA that clocks each transfer at the first look and a
host that sends nothing meanwhile; late clocks and arriving bytes are in SendHoldsOrAdvances, step by step. -/
def Obligations.WholeFrameSent : Prop :=
  ∀ (s : State) (replies : Vector Byte 19) (later : List (List EnvMove)),
    s.phase = .nSend 0 → s.busRole = .slave → s.xfer = none →
    s.env = (replies.toList.map fun b => [[], [EnvMove.fpgaClock b]]).flatten ++ later →
    Sys2Proof.core.run 19 s = .next { s with
      phase := .nPoll, fpgaOut := s.fpgaOut ++ s.frameBuf.toList, busData := replies.get 18, xferDone := true
      env := later }

/-- A silent FPGA (rules R207, R324): with no sentinel in BUSDATA the sequencer stays in `N_WAIT` for any number of
steps, serves no byte of RX and sends nothing. That the wait has no bound is the spec's decision D31, which errs toward
proving, and that RX is not polled in it is D26 (assumption log, entry 13). -/
def Obligations.SilentFpgaHoldsWait : Prop :=
  ∀ (k : Nat) (s : State), s.phase = .nWait → s.busData ≠ 0x5A → s.fpgaSilent →
    ∃ t : State, Sys2Proof.core.run k s = .next t ∧ t = { s.envTurns k with busData := s.busData } ∧
      t.phase = .nWait ∧ t.tx = s.tx ∧ t.fpgaOut = s.fpgaOut

/-- A FPGA that stops mid-frame (rules R204, R323): the sequencer stays in `N_SEND(i)` for any number of steps, and
nothing is sent. That the wait has no bound is the spec's decision D31, which errs toward proving (assumption log, entry
13). -/
def Obligations.StalledFrameHolds : Prop :=
  ∀ (k : Nat) (s : State) (i : Fin 19), Inv s → s.phase = .nSend i → s.fpgaSilent →
    ∃ t : State, Sys2Proof.core.run k s = .next t ∧ t.phase = .nSend i ∧ t.tx = s.tx ∧ t.fpgaOut = s.fpgaOut ∧
      ∃ more, t.rx = s.rx ++ more

/-! ### The Accelerometer Sampler -/

/-- `Sample(channel)` in MASTER role, the other chip-select deasserted (rules R103, R220 to R223): the truncated average
of 17 readings, each shifted right by 5 first; the sensor has received `10 DUMMY DUMMY` 17 times and answered 51 bytes,
the other sensor none; the chip-select ends deasserted. The high byte first is the spec's decision D14. -/
def Obligations.SampleAverages : Prop :=
  ∀ (ch : Channel) (s : State), s.busRole = .master → s.select ch.other = .deasserted →
    (sample ch s).2.toNat = s.sampleSum ch / 17 ∧
    (sample ch s).1.sensorOut ch =
      s.sensorOut ch ++ (List.replicate 17 [0x10, Config.dummyByte, Config.dummyByte]).flatten ∧
    (sample ch s).1.sensorOut ch.other = s.sensorOut ch.other ∧
    (sample ch s).1.answers ch = (s.answers ch).drop 51 ∧
    (sample ch s).1.answers ch.other = s.answers ch.other ∧
    (sample ch s).1.select ch = .deasserted ∧ (sample ch s).1.select ch.other = .deasserted ∧
    (sample ch s).1.n = 17 ∧ (sample ch s).1.sum.toNat = s.sampleSum ch ∧
    (sample ch s).1.draws = s.draws + (51 - (s.answers ch).length) ∧
    (sample ch s).1 = { s.envTurns 102 with
      busData := (sample ch s).1.busData, xferDone := (sample ch s).1.xferDone
      sensorOutRear := (sample ch s).1.sensorOutRear, sensorOutFront := (sample ch s).1.sensorOutFront
      rearAnswers := (sample ch s).1.rearAnswers, frontAnswers := (sample ch s).1.frontAnswers
      draws := (sample ch s).1.draws, pinCsRear := (sample ch s).1.pinCsRear
      pinCsFront := (sample ch s).1.pinCsFront, sum := (sample ch s).1.sum, n := (sample ch s).1.n }

/-- The range of a sample (rule R224): at most 0x07FF from every state; and, sampling as in SampleAverages, 0x07FF
exactly when all 17 readings have bits 15 to 5 all ones. -/
def Obligations.SampleRange : Prop :=
  (∀ (ch : Channel) (s : State), (sample ch s).2.toNat ≤ 0x07FF) ∧
  ∀ (ch : Channel) (s : State), s.busRole = .master → s.select ch.other = .deasserted →
    ((sample ch s).2 = 0x07FF ↔ ∀ k < 17, (s.reading ch k).toNat / 32 = 0x07FF)

/-- The sampling phases of the report-only loop (rule R249): each writes its own reading, the average of its sensor's
next 17 readings, leaves the other, and goes on to its poll. -/
def Obligations.ReportLoopSamples : Prop :=
  (∀ s : State, s.phase = .pSampleRear → s.busRole = .master → s.pinCsFront = .deasserted →
    ∃ t : State, step s = .next t ∧ t.accelRear.toNat = s.sampleSum .rear / 17 ∧ t.accelFront = s.accelFront ∧
      t.phase = .pPollA ∧ t.rx = (s.envTurns 102).rx ∧ t.tx = s.tx ∧ t.busRole = .master ∧
      t.reportOnly = s.reportOnly ∧ t.pinCsRear = .deasserted ∧ t.pinCsFront = .deasserted ∧
      t.sensorOutFront = s.sensorOutFront) ∧
  ∀ s : State, s.phase = .pSampleFront → s.busRole = .master → s.pinCsRear = .deasserted →
    ∃ t : State, step s = .next t ∧ t.accelFront.toNat = s.sampleSum .front / 17 ∧ t.accelRear = s.accelRear ∧
      t.phase = .pPollB ∧ t.rx = (s.envTurns 102).rx ∧ t.tx = s.tx ∧ t.busRole = .master ∧
      t.reportOnly = s.reportOnly ∧ t.pinCsRear = .deasserted ∧ t.pinCsFront = .deasserted ∧
      t.sensorOutRear = s.sensorOutRear

/-- Phase `B_BASELINE` (rule R244): both readings are taken, rear then front (the spec's decision D29), and kept. -/
def Obligations.BaselineSamplesBoth : Prop :=
  ∀ s : State, s.phase = .bBaseline → s.busRole = .master → s.pinCsRear = .deasserted → s.pinCsFront = .deasserted →
    ∃ t : State, step s = .next t ∧ t.accelRear.toNat = s.sampleSum .rear / 17 ∧
      t.accelFront.toNat =
        State.sampleSum .front { s with draws := s.draws + (51 - s.rearAnswers.length) } / 17 ∧
      t.phase = .bFinish ∧ t.busRole = .master ∧ t.rx = (s.envTurns 204).rx ∧ t.tx = s.tx ∧
      t.reportOnly = s.reportOnly ∧ t.count = s.count ∧ t.pinAccelInit = s.pinAccelInit ∧
      t.pinFpgaEnable = s.pinFpgaEnable

/-! ### The Power-On / Mode State Machine -/

/-- Phase `B_IDLE_PINS` (rule R241): the four output pins are deasserted, whatever they were (which pins is the spec's
decision D28). -/
def Obligations.IdlePinsDeasserted : Prop :=
  ∀ s : State, s.phase = .bIdlePins → step s = .next { s.envTurns 4 with
    pinCsRear := .deasserted, pinCsFront := .deasserted, pinAccelInit := .deasserted
    pinFpgaEnable := .deasserted, phase := .bCheckReady }

/-- Phase `B_CHECK_READY` (rule R242): the FPGA's ready input, read once, selects bring-up or the permanent diversion;
only the phase is written. That the diversion goes to `E_ENTER` is the spec's decision D27 (assumption log, entry 13). -/
def Obligations.ReadyPinSelectsMode : Prop :=
  ∀ s : State, s.phase = .bCheckReady →
    (s.envTurn.pinFpgaReady = .asserted → step s = .next { s.envTurn with phase := .bInit }) ∧
    (s.envTurn.pinFpgaReady = .deasserted → step s = .next { s.envTurn with phase := .eEnter })

/-- Phase `B_INIT` (rule R243): accel-init asserted, then the bus in master role; nothing else is written. -/
def Obligations.InitTakesMasterRole : Prop :=
  ∀ s : State, s.phase = .bInit → step s = .next
    { State.envTurn { s.envTurns 3 with pinAccelInit := .asserted, busRole := .master } with phase := .bBaseline }

/-- Phase `B_FINISH` (rule R245): accel-init deasserted, then the bus in slave role, then the FPGA enabled, then NORMAL;
nothing else is written, `reportOnly` among it. -/
def Obligations.FinishEntersNormal : Prop :=
  ∀ s : State, s.phase = .bFinish → step s = .next
    { State.envTurn { s.envTurns 3 with pinAccelInit := .deasserted, busRole := .slave } with
      pinFpgaEnable := .asserted, phase := .nWait }

/-- Phase `E_ENTER` (rules R247, R248): the mode flag, accel-init, master role; nothing else is written. The place of
the flag's write is the spec's decision D30, and that the boot-time diversion comes here is D27. -/
def Obligations.EnterSetsReportOnly : Prop :=
  ∀ s : State, s.phase = .eEnter → step s = .next
    { State.envTurn { s.envTurns 3 with reportOnly := true, pinAccelInit := .asserted, busRole := .master } with
      phase := .pSampleRear }
end

