-- ==== Sys2Proof/Laws/State.lean ====
section
/-! SUPPORT. One lemma per field per update of the state, true by rfl. An update that takes a turn of the environment
leaves RX, BUSDATA, XFER_DONE, FPGA_OUT and PIN_FPGA_READY as that turn does. -/

namespace Sys2Proof.Machine

variable (s : State)

/-! ### envTurn -/

@[simp] theorem State.envTurn_phase : s.envTurn.phase = s.phase := rfl
@[simp] theorem State.envTurn_crc : s.envTurn.crc = s.crc := rfl
@[simp] theorem State.envTurn_accelRear : s.envTurn.accelRear = s.accelRear := rfl
@[simp] theorem State.envTurn_accelFront : s.envTurn.accelFront = s.accelFront := rfl
@[simp] theorem State.envTurn_head : s.envTurn.head = s.head := rfl
@[simp] theorem State.envTurn_tail : s.envTurn.tail = s.tail := rfl
@[simp] theorem State.envTurn_count : s.envTurn.count = s.count := rfl
@[simp] theorem State.envTurn_qmem : s.envTurn.qmem = s.qmem := rfl
@[simp] theorem State.envTurn_buf : s.envTurn.buf = s.buf := rfl
@[simp] theorem State.envTurn_reportOnly : s.envTurn.reportOnly = s.reportOnly := rfl
@[simp] theorem State.envTurn_defer : s.envTurn.defer = s.defer := rfl
@[simp] theorem State.envTurn_busRole : s.envTurn.busRole = s.busRole := rfl
@[simp] theorem State.envTurn_pinAccelInit : s.envTurn.pinAccelInit = s.pinAccelInit := rfl
@[simp] theorem State.envTurn_pinFpgaEnable : s.envTurn.pinFpgaEnable = s.pinFpgaEnable := rfl
@[simp] theorem State.envTurn_pinCsRear : s.envTurn.pinCsRear = s.pinCsRear := rfl
@[simp] theorem State.envTurn_pinCsFront : s.envTurn.pinCsFront = s.pinCsFront := rfl
@[simp] theorem State.envTurn_xfer : s.envTurn.xfer = s.xfer := rfl
@[simp] theorem State.envTurn_interbyte : s.envTurn.interbyte = s.interbyte := rfl
@[simp] theorem State.envTurn_transaction : s.envTurn.transaction = s.transaction := rfl
@[simp] theorem State.envTurn_frameBuf : s.envTurn.frameBuf = s.frameBuf := rfl
@[simp] theorem State.envTurn_sum : s.envTurn.sum = s.sum := rfl
@[simp] theorem State.envTurn_n : s.envTurn.n = s.n := rfl
@[simp] theorem State.envTurn_tx : s.envTurn.tx = s.tx := rfl
@[simp] theorem State.envTurn_sensorOutRear : s.envTurn.sensorOutRear = s.sensorOutRear := rfl
@[simp] theorem State.envTurn_sensorOutFront : s.envTurn.sensorOutFront = s.sensorOutFront := rfl
@[simp] theorem State.envTurn_env : s.envTurn.env = s.env.tail := rfl
@[simp] theorem State.envTurn_rearAnswers : s.envTurn.rearAnswers = s.rearAnswers := rfl
@[simp] theorem State.envTurn_frontAnswers : s.envTurn.frontAnswers = s.frontAnswers := rfl
@[simp] theorem State.envTurn_draws : s.envTurn.draws = s.draws := rfl
@[simp] theorem State.envTurn_params : s.envTurn.params = s.params := rfl

/-! ### returnFromPoll -/

@[simp] theorem State.returnFromPoll_phase : s.returnFromPoll.phase = s.phase.afterPoll := rfl
@[simp] theorem State.returnFromPoll_crc : s.returnFromPoll.crc = s.crc := rfl
@[simp] theorem State.returnFromPoll_accelRear : s.returnFromPoll.accelRear = s.accelRear := rfl
@[simp] theorem State.returnFromPoll_accelFront : s.returnFromPoll.accelFront = s.accelFront := rfl
@[simp] theorem State.returnFromPoll_head : s.returnFromPoll.head = s.head := rfl
@[simp] theorem State.returnFromPoll_tail : s.returnFromPoll.tail = s.tail := rfl
@[simp] theorem State.returnFromPoll_count : s.returnFromPoll.count = s.count := rfl
@[simp] theorem State.returnFromPoll_qmem : s.returnFromPoll.qmem = s.qmem := rfl
@[simp] theorem State.returnFromPoll_buf : s.returnFromPoll.buf = s.buf := rfl
@[simp] theorem State.returnFromPoll_reportOnly : s.returnFromPoll.reportOnly = s.reportOnly := rfl
@[simp] theorem State.returnFromPoll_defer : s.returnFromPoll.defer = s.defer := rfl
@[simp] theorem State.returnFromPoll_busRole : s.returnFromPoll.busRole = s.busRole := rfl
@[simp] theorem State.returnFromPoll_pinAccelInit : s.returnFromPoll.pinAccelInit = s.pinAccelInit := rfl
@[simp] theorem State.returnFromPoll_pinFpgaEnable : s.returnFromPoll.pinFpgaEnable = s.pinFpgaEnable := rfl
@[simp] theorem State.returnFromPoll_pinCsRear : s.returnFromPoll.pinCsRear = s.pinCsRear := rfl
@[simp] theorem State.returnFromPoll_pinCsFront : s.returnFromPoll.pinCsFront = s.pinCsFront := rfl
@[simp] theorem State.returnFromPoll_pinFpgaReady : s.returnFromPoll.pinFpgaReady = s.pinFpgaReady := rfl
@[simp] theorem State.returnFromPoll_busData : s.returnFromPoll.busData = s.busData := rfl
@[simp] theorem State.returnFromPoll_xferDone : s.returnFromPoll.xferDone = s.xferDone := rfl
@[simp] theorem State.returnFromPoll_xfer : s.returnFromPoll.xfer = s.xfer := rfl
@[simp] theorem State.returnFromPoll_interbyte : s.returnFromPoll.interbyte = s.interbyte := rfl
@[simp] theorem State.returnFromPoll_transaction : s.returnFromPoll.transaction = s.transaction := rfl
@[simp] theorem State.returnFromPoll_frameBuf : s.returnFromPoll.frameBuf = s.frameBuf := rfl
@[simp] theorem State.returnFromPoll_sum : s.returnFromPoll.sum = s.sum := rfl
@[simp] theorem State.returnFromPoll_n : s.returnFromPoll.n = s.n := rfl
@[simp] theorem State.returnFromPoll_rx : s.returnFromPoll.rx = s.rx := rfl
@[simp] theorem State.returnFromPoll_tx : s.returnFromPoll.tx = s.tx := rfl
@[simp] theorem State.returnFromPoll_fpgaOut : s.returnFromPoll.fpgaOut = s.fpgaOut := rfl
@[simp] theorem State.returnFromPoll_sensorOutRear : s.returnFromPoll.sensorOutRear = s.sensorOutRear := rfl
@[simp] theorem State.returnFromPoll_sensorOutFront : s.returnFromPoll.sensorOutFront = s.sensorOutFront := rfl
@[simp] theorem State.returnFromPoll_env : s.returnFromPoll.env = s.env := rfl
@[simp] theorem State.returnFromPoll_rearAnswers : s.returnFromPoll.rearAnswers = s.rearAnswers := rfl
@[simp] theorem State.returnFromPoll_frontAnswers : s.returnFromPoll.frontAnswers = s.frontAnswers := rfl
@[simp] theorem State.returnFromPoll_draws : s.returnFromPoll.draws = s.draws := rfl
@[simp] theorem State.returnFromPoll_params : s.returnFromPoll.params = s.params := rfl

/-! ### storeOpcode -/

@[simp] theorem State.storeOpcode_phase (b : Byte) : (s.storeOpcode b).phase = s.phase := rfl
@[simp] theorem State.storeOpcode_crc (b : Byte) : (s.storeOpcode b).crc = s.crc := rfl
@[simp] theorem State.storeOpcode_accelRear (b : Byte) : (s.storeOpcode b).accelRear = s.accelRear := rfl
@[simp] theorem State.storeOpcode_accelFront (b : Byte) : (s.storeOpcode b).accelFront = s.accelFront := rfl
@[simp] theorem State.storeOpcode_head (b : Byte) : (s.storeOpcode b).head = s.head := rfl
@[simp] theorem State.storeOpcode_tail (b : Byte) : (s.storeOpcode b).tail = s.tail := rfl
@[simp] theorem State.storeOpcode_count (b : Byte) : (s.storeOpcode b).count = s.count := rfl
@[simp] theorem State.storeOpcode_qmem (b : Byte) : (s.storeOpcode b).qmem = s.qmem := rfl
@[simp] theorem State.storeOpcode_buf (b : Byte) : (s.storeOpcode b).buf = putBytes s.buf 0 [b] := rfl
@[simp] theorem State.storeOpcode_reportOnly (b : Byte) : (s.storeOpcode b).reportOnly = s.reportOnly := rfl
@[simp] theorem State.storeOpcode_defer (b : Byte) : (s.storeOpcode b).defer = s.defer := rfl
@[simp] theorem State.storeOpcode_busRole (b : Byte) : (s.storeOpcode b).busRole = s.busRole := rfl
@[simp] theorem State.storeOpcode_pinAccelInit (b : Byte) : (s.storeOpcode b).pinAccelInit = s.pinAccelInit := rfl
@[simp] theorem State.storeOpcode_pinFpgaEnable (b : Byte) : (s.storeOpcode b).pinFpgaEnable = s.pinFpgaEnable := rfl
@[simp] theorem State.storeOpcode_pinCsRear (b : Byte) : (s.storeOpcode b).pinCsRear = s.pinCsRear := rfl
@[simp] theorem State.storeOpcode_pinCsFront (b : Byte) : (s.storeOpcode b).pinCsFront = s.pinCsFront := rfl
@[simp] theorem State.storeOpcode_pinFpgaReady (b : Byte) : (s.storeOpcode b).pinFpgaReady = s.pinFpgaReady := rfl
@[simp] theorem State.storeOpcode_busData (b : Byte) : (s.storeOpcode b).busData = s.busData := rfl
@[simp] theorem State.storeOpcode_xferDone (b : Byte) : (s.storeOpcode b).xferDone = s.xferDone := rfl
@[simp] theorem State.storeOpcode_xfer (b : Byte) : (s.storeOpcode b).xfer = s.xfer := rfl
@[simp] theorem State.storeOpcode_interbyte (b : Byte) : (s.storeOpcode b).interbyte = s.interbyte := rfl
@[simp] theorem State.storeOpcode_transaction (b : Byte) : (s.storeOpcode b).transaction = s.transaction := rfl
@[simp] theorem State.storeOpcode_frameBuf (b : Byte) : (s.storeOpcode b).frameBuf = s.frameBuf := rfl
@[simp] theorem State.storeOpcode_sum (b : Byte) : (s.storeOpcode b).sum = s.sum := rfl
@[simp] theorem State.storeOpcode_n (b : Byte) : (s.storeOpcode b).n = s.n := rfl
@[simp] theorem State.storeOpcode_rx (b : Byte) : (s.storeOpcode b).rx = s.rx := rfl
@[simp] theorem State.storeOpcode_tx (b : Byte) : (s.storeOpcode b).tx = s.tx := rfl
@[simp] theorem State.storeOpcode_fpgaOut (b : Byte) : (s.storeOpcode b).fpgaOut = s.fpgaOut := rfl
@[simp] theorem State.storeOpcode_sensorOutRear (b : Byte) : (s.storeOpcode b).sensorOutRear = s.sensorOutRear := rfl
@[simp] theorem State.storeOpcode_sensorOutFront (b : Byte) : (s.storeOpcode b).sensorOutFront = s.sensorOutFront := rfl
@[simp] theorem State.storeOpcode_env (b : Byte) : (s.storeOpcode b).env = s.env := rfl
@[simp] theorem State.storeOpcode_rearAnswers (b : Byte) : (s.storeOpcode b).rearAnswers = s.rearAnswers := rfl
@[simp] theorem State.storeOpcode_frontAnswers (b : Byte) : (s.storeOpcode b).frontAnswers = s.frontAnswers := rfl
@[simp] theorem State.storeOpcode_draws (b : Byte) : (s.storeOpcode b).draws = s.draws := rfl
@[simp] theorem State.storeOpcode_params (b : Byte) : (s.storeOpcode b).params = s.params := rfl

/-! ### storePayload -/

@[simp] theorem State.storePayload_phase (l : List Byte) : (s.storePayload l).phase = s.phase := rfl
@[simp] theorem State.storePayload_crc (l : List Byte) : (s.storePayload l).crc = s.crc := rfl
@[simp] theorem State.storePayload_accelRear (l : List Byte) : (s.storePayload l).accelRear = s.accelRear := rfl
@[simp] theorem State.storePayload_accelFront (l : List Byte) : (s.storePayload l).accelFront = s.accelFront := rfl
@[simp] theorem State.storePayload_head (l : List Byte) : (s.storePayload l).head = s.head := rfl
@[simp] theorem State.storePayload_tail (l : List Byte) : (s.storePayload l).tail = s.tail := rfl
@[simp] theorem State.storePayload_count (l : List Byte) : (s.storePayload l).count = s.count := rfl
@[simp] theorem State.storePayload_qmem (l : List Byte) : (s.storePayload l).qmem = s.qmem := rfl
@[simp] theorem State.storePayload_buf (l : List Byte) : (s.storePayload l).buf = putBytes s.buf 1 l := rfl
@[simp] theorem State.storePayload_reportOnly (l : List Byte) : (s.storePayload l).reportOnly = s.reportOnly := rfl
@[simp] theorem State.storePayload_defer (l : List Byte) : (s.storePayload l).defer = s.defer := rfl
@[simp] theorem State.storePayload_busRole (l : List Byte) : (s.storePayload l).busRole = s.busRole := rfl
@[simp] theorem State.storePayload_pinAccelInit (l : List Byte) : (s.storePayload l).pinAccelInit = s.pinAccelInit := rfl
@[simp] theorem State.storePayload_pinFpgaEnable (l : List Byte) : (s.storePayload l).pinFpgaEnable = s.pinFpgaEnable := rfl
@[simp] theorem State.storePayload_pinCsRear (l : List Byte) : (s.storePayload l).pinCsRear = s.pinCsRear := rfl
@[simp] theorem State.storePayload_pinCsFront (l : List Byte) : (s.storePayload l).pinCsFront = s.pinCsFront := rfl
@[simp] theorem State.storePayload_pinFpgaReady (l : List Byte) : (s.storePayload l).pinFpgaReady = s.pinFpgaReady := rfl
@[simp] theorem State.storePayload_busData (l : List Byte) : (s.storePayload l).busData = s.busData := rfl
@[simp] theorem State.storePayload_xferDone (l : List Byte) : (s.storePayload l).xferDone = s.xferDone := rfl
@[simp] theorem State.storePayload_xfer (l : List Byte) : (s.storePayload l).xfer = s.xfer := rfl
@[simp] theorem State.storePayload_interbyte (l : List Byte) : (s.storePayload l).interbyte = s.interbyte := rfl
@[simp] theorem State.storePayload_transaction (l : List Byte) : (s.storePayload l).transaction = s.transaction := rfl
@[simp] theorem State.storePayload_frameBuf (l : List Byte) : (s.storePayload l).frameBuf = s.frameBuf := rfl
@[simp] theorem State.storePayload_sum (l : List Byte) : (s.storePayload l).sum = s.sum := rfl
@[simp] theorem State.storePayload_n (l : List Byte) : (s.storePayload l).n = s.n := rfl
@[simp] theorem State.storePayload_rx (l : List Byte) : (s.storePayload l).rx = s.rx := rfl
@[simp] theorem State.storePayload_tx (l : List Byte) : (s.storePayload l).tx = s.tx := rfl
@[simp] theorem State.storePayload_fpgaOut (l : List Byte) : (s.storePayload l).fpgaOut = s.fpgaOut := rfl
@[simp] theorem State.storePayload_sensorOutRear (l : List Byte) : (s.storePayload l).sensorOutRear = s.sensorOutRear := rfl
@[simp] theorem State.storePayload_sensorOutFront (l : List Byte) : (s.storePayload l).sensorOutFront = s.sensorOutFront := rfl
@[simp] theorem State.storePayload_env (l : List Byte) : (s.storePayload l).env = s.env := rfl
@[simp] theorem State.storePayload_rearAnswers (l : List Byte) : (s.storePayload l).rearAnswers = s.rearAnswers := rfl
@[simp] theorem State.storePayload_frontAnswers (l : List Byte) : (s.storePayload l).frontAnswers = s.frontAnswers := rfl
@[simp] theorem State.storePayload_draws (l : List Byte) : (s.storePayload l).draws = s.draws := rfl
@[simp] theorem State.storePayload_params (l : List Byte) : (s.storePayload l).params = s.params := rfl

/-! ### storeChecksum -/

@[simp] theorem State.storeChecksum_phase (l : List Byte) : (s.storeChecksum l).phase = s.phase := rfl
@[simp] theorem State.storeChecksum_crc (l : List Byte) : (s.storeChecksum l).crc = s.crc := rfl
@[simp] theorem State.storeChecksum_accelRear (l : List Byte) : (s.storeChecksum l).accelRear = s.accelRear := rfl
@[simp] theorem State.storeChecksum_accelFront (l : List Byte) : (s.storeChecksum l).accelFront = s.accelFront := rfl
@[simp] theorem State.storeChecksum_head (l : List Byte) : (s.storeChecksum l).head = s.head := rfl
@[simp] theorem State.storeChecksum_tail (l : List Byte) : (s.storeChecksum l).tail = s.tail := rfl
@[simp] theorem State.storeChecksum_count (l : List Byte) : (s.storeChecksum l).count = s.count := rfl
@[simp] theorem State.storeChecksum_qmem (l : List Byte) : (s.storeChecksum l).qmem = s.qmem := rfl
@[simp] theorem State.storeChecksum_buf (l : List Byte) : (s.storeChecksum l).buf = putBytes s.buf 14 l := rfl
@[simp] theorem State.storeChecksum_reportOnly (l : List Byte) : (s.storeChecksum l).reportOnly = s.reportOnly := rfl
@[simp] theorem State.storeChecksum_defer (l : List Byte) : (s.storeChecksum l).defer = s.defer := rfl
@[simp] theorem State.storeChecksum_busRole (l : List Byte) : (s.storeChecksum l).busRole = s.busRole := rfl
@[simp] theorem State.storeChecksum_pinAccelInit (l : List Byte) : (s.storeChecksum l).pinAccelInit = s.pinAccelInit := rfl
@[simp] theorem State.storeChecksum_pinFpgaEnable (l : List Byte) : (s.storeChecksum l).pinFpgaEnable = s.pinFpgaEnable := rfl
@[simp] theorem State.storeChecksum_pinCsRear (l : List Byte) : (s.storeChecksum l).pinCsRear = s.pinCsRear := rfl
@[simp] theorem State.storeChecksum_pinCsFront (l : List Byte) : (s.storeChecksum l).pinCsFront = s.pinCsFront := rfl
@[simp] theorem State.storeChecksum_pinFpgaReady (l : List Byte) : (s.storeChecksum l).pinFpgaReady = s.pinFpgaReady := rfl
@[simp] theorem State.storeChecksum_busData (l : List Byte) : (s.storeChecksum l).busData = s.busData := rfl
@[simp] theorem State.storeChecksum_xferDone (l : List Byte) : (s.storeChecksum l).xferDone = s.xferDone := rfl
@[simp] theorem State.storeChecksum_xfer (l : List Byte) : (s.storeChecksum l).xfer = s.xfer := rfl
@[simp] theorem State.storeChecksum_interbyte (l : List Byte) : (s.storeChecksum l).interbyte = s.interbyte := rfl
@[simp] theorem State.storeChecksum_transaction (l : List Byte) : (s.storeChecksum l).transaction = s.transaction := rfl
@[simp] theorem State.storeChecksum_frameBuf (l : List Byte) : (s.storeChecksum l).frameBuf = s.frameBuf := rfl
@[simp] theorem State.storeChecksum_sum (l : List Byte) : (s.storeChecksum l).sum = s.sum := rfl
@[simp] theorem State.storeChecksum_n (l : List Byte) : (s.storeChecksum l).n = s.n := rfl
@[simp] theorem State.storeChecksum_rx (l : List Byte) : (s.storeChecksum l).rx = s.rx := rfl
@[simp] theorem State.storeChecksum_tx (l : List Byte) : (s.storeChecksum l).tx = s.tx := rfl
@[simp] theorem State.storeChecksum_fpgaOut (l : List Byte) : (s.storeChecksum l).fpgaOut = s.fpgaOut := rfl
@[simp] theorem State.storeChecksum_sensorOutRear (l : List Byte) : (s.storeChecksum l).sensorOutRear = s.sensorOutRear := rfl
@[simp] theorem State.storeChecksum_sensorOutFront (l : List Byte) : (s.storeChecksum l).sensorOutFront = s.sensorOutFront := rfl
@[simp] theorem State.storeChecksum_env (l : List Byte) : (s.storeChecksum l).env = s.env := rfl
@[simp] theorem State.storeChecksum_rearAnswers (l : List Byte) : (s.storeChecksum l).rearAnswers = s.rearAnswers := rfl
@[simp] theorem State.storeChecksum_frontAnswers (l : List Byte) : (s.storeChecksum l).frontAnswers = s.frontAnswers := rfl
@[simp] theorem State.storeChecksum_draws (l : List Byte) : (s.storeChecksum l).draws = s.draws := rfl
@[simp] theorem State.storeChecksum_params (l : List Byte) : (s.storeChecksum l).params = s.params := rfl

/-! ### clearDefer -/

@[simp] theorem State.clearDefer_phase : s.clearDefer.phase = s.phase := rfl
@[simp] theorem State.clearDefer_crc : s.clearDefer.crc = s.crc := rfl
@[simp] theorem State.clearDefer_accelRear : s.clearDefer.accelRear = s.accelRear := rfl
@[simp] theorem State.clearDefer_accelFront : s.clearDefer.accelFront = s.accelFront := rfl
@[simp] theorem State.clearDefer_head : s.clearDefer.head = s.head := rfl
@[simp] theorem State.clearDefer_tail : s.clearDefer.tail = s.tail := rfl
@[simp] theorem State.clearDefer_count : s.clearDefer.count = s.count := rfl
@[simp] theorem State.clearDefer_qmem : s.clearDefer.qmem = s.qmem := rfl
@[simp] theorem State.clearDefer_buf : s.clearDefer.buf = s.buf := rfl
@[simp] theorem State.clearDefer_reportOnly : s.clearDefer.reportOnly = s.reportOnly := rfl
@[simp] theorem State.clearDefer_defer : s.clearDefer.defer = false := rfl
@[simp] theorem State.clearDefer_busRole : s.clearDefer.busRole = s.busRole := rfl
@[simp] theorem State.clearDefer_pinAccelInit : s.clearDefer.pinAccelInit = s.pinAccelInit := rfl
@[simp] theorem State.clearDefer_pinFpgaEnable : s.clearDefer.pinFpgaEnable = s.pinFpgaEnable := rfl
@[simp] theorem State.clearDefer_pinCsRear : s.clearDefer.pinCsRear = s.pinCsRear := rfl
@[simp] theorem State.clearDefer_pinCsFront : s.clearDefer.pinCsFront = s.pinCsFront := rfl
@[simp] theorem State.clearDefer_pinFpgaReady : s.clearDefer.pinFpgaReady = s.pinFpgaReady := rfl
@[simp] theorem State.clearDefer_busData : s.clearDefer.busData = s.busData := rfl
@[simp] theorem State.clearDefer_xferDone : s.clearDefer.xferDone = s.xferDone := rfl
@[simp] theorem State.clearDefer_xfer : s.clearDefer.xfer = s.xfer := rfl
@[simp] theorem State.clearDefer_interbyte : s.clearDefer.interbyte = s.interbyte := rfl
@[simp] theorem State.clearDefer_transaction : s.clearDefer.transaction = s.transaction := rfl
@[simp] theorem State.clearDefer_frameBuf : s.clearDefer.frameBuf = s.frameBuf := rfl
@[simp] theorem State.clearDefer_sum : s.clearDefer.sum = s.sum := rfl
@[simp] theorem State.clearDefer_n : s.clearDefer.n = s.n := rfl
@[simp] theorem State.clearDefer_rx : s.clearDefer.rx = s.rx := rfl
@[simp] theorem State.clearDefer_tx : s.clearDefer.tx = s.tx := rfl
@[simp] theorem State.clearDefer_fpgaOut : s.clearDefer.fpgaOut = s.fpgaOut := rfl
@[simp] theorem State.clearDefer_sensorOutRear : s.clearDefer.sensorOutRear = s.sensorOutRear := rfl
@[simp] theorem State.clearDefer_sensorOutFront : s.clearDefer.sensorOutFront = s.sensorOutFront := rfl
@[simp] theorem State.clearDefer_env : s.clearDefer.env = s.env := rfl
@[simp] theorem State.clearDefer_rearAnswers : s.clearDefer.rearAnswers = s.rearAnswers := rfl
@[simp] theorem State.clearDefer_frontAnswers : s.clearDefer.frontAnswers = s.frontAnswers := rfl
@[simp] theorem State.clearDefer_draws : s.clearDefer.draws = s.draws := rfl
@[simp] theorem State.clearDefer_params : s.clearDefer.params = s.params := rfl

/-! ### setReportOnly -/

@[simp] theorem State.setReportOnly_phase : s.setReportOnly.phase = s.phase := rfl
@[simp] theorem State.setReportOnly_crc : s.setReportOnly.crc = s.crc := rfl
@[simp] theorem State.setReportOnly_accelRear : s.setReportOnly.accelRear = s.accelRear := rfl
@[simp] theorem State.setReportOnly_accelFront : s.setReportOnly.accelFront = s.accelFront := rfl
@[simp] theorem State.setReportOnly_head : s.setReportOnly.head = s.head := rfl
@[simp] theorem State.setReportOnly_tail : s.setReportOnly.tail = s.tail := rfl
@[simp] theorem State.setReportOnly_count : s.setReportOnly.count = s.count := rfl
@[simp] theorem State.setReportOnly_qmem : s.setReportOnly.qmem = s.qmem := rfl
@[simp] theorem State.setReportOnly_buf : s.setReportOnly.buf = s.buf := rfl
@[simp] theorem State.setReportOnly_reportOnly : s.setReportOnly.reportOnly = true := rfl
@[simp] theorem State.setReportOnly_defer : s.setReportOnly.defer = s.defer := rfl
@[simp] theorem State.setReportOnly_busRole : s.setReportOnly.busRole = s.busRole := rfl
@[simp] theorem State.setReportOnly_pinAccelInit : s.setReportOnly.pinAccelInit = s.pinAccelInit := rfl
@[simp] theorem State.setReportOnly_pinFpgaEnable : s.setReportOnly.pinFpgaEnable = s.pinFpgaEnable := rfl
@[simp] theorem State.setReportOnly_pinCsRear : s.setReportOnly.pinCsRear = s.pinCsRear := rfl
@[simp] theorem State.setReportOnly_pinCsFront : s.setReportOnly.pinCsFront = s.pinCsFront := rfl
@[simp] theorem State.setReportOnly_pinFpgaReady : s.setReportOnly.pinFpgaReady = s.pinFpgaReady := rfl
@[simp] theorem State.setReportOnly_busData : s.setReportOnly.busData = s.busData := rfl
@[simp] theorem State.setReportOnly_xferDone : s.setReportOnly.xferDone = s.xferDone := rfl
@[simp] theorem State.setReportOnly_xfer : s.setReportOnly.xfer = s.xfer := rfl
@[simp] theorem State.setReportOnly_interbyte : s.setReportOnly.interbyte = s.interbyte := rfl
@[simp] theorem State.setReportOnly_transaction : s.setReportOnly.transaction = s.transaction := rfl
@[simp] theorem State.setReportOnly_frameBuf : s.setReportOnly.frameBuf = s.frameBuf := rfl
@[simp] theorem State.setReportOnly_sum : s.setReportOnly.sum = s.sum := rfl
@[simp] theorem State.setReportOnly_n : s.setReportOnly.n = s.n := rfl
@[simp] theorem State.setReportOnly_rx : s.setReportOnly.rx = s.rx := rfl
@[simp] theorem State.setReportOnly_tx : s.setReportOnly.tx = s.tx := rfl
@[simp] theorem State.setReportOnly_fpgaOut : s.setReportOnly.fpgaOut = s.fpgaOut := rfl
@[simp] theorem State.setReportOnly_sensorOutRear : s.setReportOnly.sensorOutRear = s.sensorOutRear := rfl
@[simp] theorem State.setReportOnly_sensorOutFront : s.setReportOnly.sensorOutFront = s.sensorOutFront := rfl
@[simp] theorem State.setReportOnly_env : s.setReportOnly.env = s.env := rfl
@[simp] theorem State.setReportOnly_rearAnswers : s.setReportOnly.rearAnswers = s.rearAnswers := rfl
@[simp] theorem State.setReportOnly_frontAnswers : s.setReportOnly.frontAnswers = s.frontAnswers := rfl
@[simp] theorem State.setReportOnly_draws : s.setReportOnly.draws = s.draws := rfl
@[simp] theorem State.setReportOnly_params : s.setReportOnly.params = s.params := rfl

/-! ### crcReset -/

@[simp] theorem State.crcReset_phase : s.crcReset.phase = s.phase := rfl
@[simp] theorem State.crcReset_crc : s.crcReset.crc = Params.crcInit := rfl
@[simp] theorem State.crcReset_accelRear : s.crcReset.accelRear = s.accelRear := rfl
@[simp] theorem State.crcReset_accelFront : s.crcReset.accelFront = s.accelFront := rfl
@[simp] theorem State.crcReset_head : s.crcReset.head = s.head := rfl
@[simp] theorem State.crcReset_tail : s.crcReset.tail = s.tail := rfl
@[simp] theorem State.crcReset_count : s.crcReset.count = s.count := rfl
@[simp] theorem State.crcReset_qmem : s.crcReset.qmem = s.qmem := rfl
@[simp] theorem State.crcReset_buf : s.crcReset.buf = s.buf := rfl
@[simp] theorem State.crcReset_reportOnly : s.crcReset.reportOnly = s.reportOnly := rfl
@[simp] theorem State.crcReset_defer : s.crcReset.defer = s.defer := rfl
@[simp] theorem State.crcReset_busRole : s.crcReset.busRole = s.busRole := rfl
@[simp] theorem State.crcReset_pinAccelInit : s.crcReset.pinAccelInit = s.pinAccelInit := rfl
@[simp] theorem State.crcReset_pinFpgaEnable : s.crcReset.pinFpgaEnable = s.pinFpgaEnable := rfl
@[simp] theorem State.crcReset_pinCsRear : s.crcReset.pinCsRear = s.pinCsRear := rfl
@[simp] theorem State.crcReset_pinCsFront : s.crcReset.pinCsFront = s.pinCsFront := rfl
@[simp] theorem State.crcReset_pinFpgaReady : s.crcReset.pinFpgaReady = s.pinFpgaReady := rfl
@[simp] theorem State.crcReset_busData : s.crcReset.busData = s.busData := rfl
@[simp] theorem State.crcReset_xferDone : s.crcReset.xferDone = s.xferDone := rfl
@[simp] theorem State.crcReset_xfer : s.crcReset.xfer = s.xfer := rfl
@[simp] theorem State.crcReset_interbyte : s.crcReset.interbyte = s.interbyte := rfl
@[simp] theorem State.crcReset_transaction : s.crcReset.transaction = s.transaction := rfl
@[simp] theorem State.crcReset_frameBuf : s.crcReset.frameBuf = s.frameBuf := rfl
@[simp] theorem State.crcReset_sum : s.crcReset.sum = s.sum := rfl
@[simp] theorem State.crcReset_n : s.crcReset.n = s.n := rfl
@[simp] theorem State.crcReset_rx : s.crcReset.rx = s.rx := rfl
@[simp] theorem State.crcReset_tx : s.crcReset.tx = s.tx := rfl
@[simp] theorem State.crcReset_fpgaOut : s.crcReset.fpgaOut = s.fpgaOut := rfl
@[simp] theorem State.crcReset_sensorOutRear : s.crcReset.sensorOutRear = s.sensorOutRear := rfl
@[simp] theorem State.crcReset_sensorOutFront : s.crcReset.sensorOutFront = s.sensorOutFront := rfl
@[simp] theorem State.crcReset_env : s.crcReset.env = s.env := rfl
@[simp] theorem State.crcReset_rearAnswers : s.crcReset.rearAnswers = s.rearAnswers := rfl
@[simp] theorem State.crcReset_frontAnswers : s.crcReset.frontAnswers = s.frontAnswers := rfl
@[simp] theorem State.crcReset_draws : s.crcReset.draws = s.draws := rfl
@[simp] theorem State.crcReset_params : s.crcReset.params = s.params := rfl

/-! ### endTransfer -/

@[simp] theorem State.endTransfer_phase : s.endTransfer.phase = s.phase := rfl
@[simp] theorem State.endTransfer_crc : s.endTransfer.crc = s.crc := rfl
@[simp] theorem State.endTransfer_accelRear : s.endTransfer.accelRear = s.accelRear := rfl
@[simp] theorem State.endTransfer_accelFront : s.endTransfer.accelFront = s.accelFront := rfl
@[simp] theorem State.endTransfer_head : s.endTransfer.head = s.head := rfl
@[simp] theorem State.endTransfer_tail : s.endTransfer.tail = s.tail := rfl
@[simp] theorem State.endTransfer_count : s.endTransfer.count = s.count := rfl
@[simp] theorem State.endTransfer_qmem : s.endTransfer.qmem = s.qmem := rfl
@[simp] theorem State.endTransfer_buf : s.endTransfer.buf = s.buf := rfl
@[simp] theorem State.endTransfer_reportOnly : s.endTransfer.reportOnly = s.reportOnly := rfl
@[simp] theorem State.endTransfer_defer : s.endTransfer.defer = s.defer := rfl
@[simp] theorem State.endTransfer_busRole : s.endTransfer.busRole = s.busRole := rfl
@[simp] theorem State.endTransfer_pinAccelInit : s.endTransfer.pinAccelInit = s.pinAccelInit := rfl
@[simp] theorem State.endTransfer_pinFpgaEnable : s.endTransfer.pinFpgaEnable = s.pinFpgaEnable := rfl
@[simp] theorem State.endTransfer_pinCsRear : s.endTransfer.pinCsRear = s.pinCsRear := rfl
@[simp] theorem State.endTransfer_pinCsFront : s.endTransfer.pinCsFront = s.pinCsFront := rfl
@[simp] theorem State.endTransfer_pinFpgaReady : s.endTransfer.pinFpgaReady = s.pinFpgaReady := rfl
@[simp] theorem State.endTransfer_busData : s.endTransfer.busData = s.busData := rfl
@[simp] theorem State.endTransfer_xferDone : s.endTransfer.xferDone = s.xferDone := rfl
@[simp] theorem State.endTransfer_xfer : s.endTransfer.xfer = none := rfl
@[simp] theorem State.endTransfer_interbyte : s.endTransfer.interbyte = s.interbyte := rfl
@[simp] theorem State.endTransfer_transaction : s.endTransfer.transaction = s.transaction := rfl
@[simp] theorem State.endTransfer_frameBuf : s.endTransfer.frameBuf = s.frameBuf := rfl
@[simp] theorem State.endTransfer_sum : s.endTransfer.sum = s.sum := rfl
@[simp] theorem State.endTransfer_n : s.endTransfer.n = s.n := rfl
@[simp] theorem State.endTransfer_rx : s.endTransfer.rx = s.rx := rfl
@[simp] theorem State.endTransfer_tx : s.endTransfer.tx = s.tx := rfl
@[simp] theorem State.endTransfer_fpgaOut : s.endTransfer.fpgaOut = s.fpgaOut := rfl
@[simp] theorem State.endTransfer_sensorOutRear : s.endTransfer.sensorOutRear = s.sensorOutRear := rfl
@[simp] theorem State.endTransfer_sensorOutFront : s.endTransfer.sensorOutFront = s.sensorOutFront := rfl
@[simp] theorem State.endTransfer_env : s.endTransfer.env = s.env := rfl
@[simp] theorem State.endTransfer_rearAnswers : s.endTransfer.rearAnswers = s.rearAnswers := rfl
@[simp] theorem State.endTransfer_frontAnswers : s.endTransfer.frontAnswers = s.frontAnswers := rfl
@[simp] theorem State.endTransfer_draws : s.endTransfer.draws = s.draws := rfl
@[simp] theorem State.endTransfer_params : s.endTransfer.params = s.params := rfl

/-! ### transmit -/

@[simp] theorem State.transmit_phase (l : List Byte) : (s.transmit l).phase = s.phase := rfl
@[simp] theorem State.transmit_crc (l : List Byte) : (s.transmit l).crc = s.crc := rfl
@[simp] theorem State.transmit_accelRear (l : List Byte) : (s.transmit l).accelRear = s.accelRear := rfl
@[simp] theorem State.transmit_accelFront (l : List Byte) : (s.transmit l).accelFront = s.accelFront := rfl
@[simp] theorem State.transmit_head (l : List Byte) : (s.transmit l).head = s.head := rfl
@[simp] theorem State.transmit_tail (l : List Byte) : (s.transmit l).tail = s.tail := rfl
@[simp] theorem State.transmit_count (l : List Byte) : (s.transmit l).count = s.count := rfl
@[simp] theorem State.transmit_qmem (l : List Byte) : (s.transmit l).qmem = s.qmem := rfl
@[simp] theorem State.transmit_buf (l : List Byte) : (s.transmit l).buf = s.buf := rfl
@[simp] theorem State.transmit_reportOnly (l : List Byte) : (s.transmit l).reportOnly = s.reportOnly := rfl
@[simp] theorem State.transmit_defer (l : List Byte) : (s.transmit l).defer = s.defer := rfl
@[simp] theorem State.transmit_busRole (l : List Byte) : (s.transmit l).busRole = s.busRole := rfl
@[simp] theorem State.transmit_pinAccelInit (l : List Byte) : (s.transmit l).pinAccelInit = s.pinAccelInit := rfl
@[simp] theorem State.transmit_pinFpgaEnable (l : List Byte) : (s.transmit l).pinFpgaEnable = s.pinFpgaEnable := rfl
@[simp] theorem State.transmit_pinCsRear (l : List Byte) : (s.transmit l).pinCsRear = s.pinCsRear := rfl
@[simp] theorem State.transmit_pinCsFront (l : List Byte) : (s.transmit l).pinCsFront = s.pinCsFront := rfl
@[simp] theorem State.transmit_pinFpgaReady (l : List Byte) : (s.transmit l).pinFpgaReady = s.envTurn.pinFpgaReady := rfl
@[simp] theorem State.transmit_busData (l : List Byte) : (s.transmit l).busData = s.envTurn.busData := rfl
@[simp] theorem State.transmit_xferDone (l : List Byte) : (s.transmit l).xferDone = s.envTurn.xferDone := rfl
@[simp] theorem State.transmit_xfer (l : List Byte) : (s.transmit l).xfer = s.xfer := rfl
@[simp] theorem State.transmit_interbyte (l : List Byte) : (s.transmit l).interbyte = s.interbyte := rfl
@[simp] theorem State.transmit_transaction (l : List Byte) : (s.transmit l).transaction = s.transaction := rfl
@[simp] theorem State.transmit_frameBuf (l : List Byte) : (s.transmit l).frameBuf = s.frameBuf := rfl
@[simp] theorem State.transmit_sum (l : List Byte) : (s.transmit l).sum = s.sum := rfl
@[simp] theorem State.transmit_n (l : List Byte) : (s.transmit l).n = s.n := rfl
@[simp] theorem State.transmit_rx (l : List Byte) : (s.transmit l).rx = s.envTurn.rx := rfl
@[simp] theorem State.transmit_tx (l : List Byte) : (s.transmit l).tx = s.tx ++ l := rfl
@[simp] theorem State.transmit_fpgaOut (l : List Byte) : (s.transmit l).fpgaOut = s.envTurn.fpgaOut := rfl
@[simp] theorem State.transmit_sensorOutRear (l : List Byte) : (s.transmit l).sensorOutRear = s.sensorOutRear := rfl
@[simp] theorem State.transmit_sensorOutFront (l : List Byte) : (s.transmit l).sensorOutFront = s.sensorOutFront := rfl
@[simp] theorem State.transmit_env (l : List Byte) : (s.transmit l).env = s.envTurn.env := rfl
@[simp] theorem State.transmit_rearAnswers (l : List Byte) : (s.transmit l).rearAnswers = s.rearAnswers := rfl
@[simp] theorem State.transmit_frontAnswers (l : List Byte) : (s.transmit l).frontAnswers = s.frontAnswers := rfl
@[simp] theorem State.transmit_draws (l : List Byte) : (s.transmit l).draws = s.draws := rfl
@[simp] theorem State.transmit_params (l : List Byte) : (s.transmit l).params = s.params := rfl

/-! ### delay -/

@[simp] theorem State.delay_phase (d : Nat) : (s.delay d).phase = s.phase := rfl
@[simp] theorem State.delay_crc (d : Nat) : (s.delay d).crc = s.crc := rfl
@[simp] theorem State.delay_accelRear (d : Nat) : (s.delay d).accelRear = s.accelRear := rfl
@[simp] theorem State.delay_accelFront (d : Nat) : (s.delay d).accelFront = s.accelFront := rfl
@[simp] theorem State.delay_head (d : Nat) : (s.delay d).head = s.head := rfl
@[simp] theorem State.delay_tail (d : Nat) : (s.delay d).tail = s.tail := rfl
@[simp] theorem State.delay_count (d : Nat) : (s.delay d).count = s.count := rfl
@[simp] theorem State.delay_qmem (d : Nat) : (s.delay d).qmem = s.qmem := rfl
@[simp] theorem State.delay_buf (d : Nat) : (s.delay d).buf = s.buf := rfl
@[simp] theorem State.delay_reportOnly (d : Nat) : (s.delay d).reportOnly = s.reportOnly := rfl
@[simp] theorem State.delay_defer (d : Nat) : (s.delay d).defer = s.defer := rfl
@[simp] theorem State.delay_busRole (d : Nat) : (s.delay d).busRole = s.busRole := rfl
@[simp] theorem State.delay_pinAccelInit (d : Nat) : (s.delay d).pinAccelInit = s.pinAccelInit := rfl
@[simp] theorem State.delay_pinFpgaEnable (d : Nat) : (s.delay d).pinFpgaEnable = s.pinFpgaEnable := rfl
@[simp] theorem State.delay_pinCsRear (d : Nat) : (s.delay d).pinCsRear = s.pinCsRear := rfl
@[simp] theorem State.delay_pinCsFront (d : Nat) : (s.delay d).pinCsFront = s.pinCsFront := rfl
@[simp] theorem State.delay_pinFpgaReady (d : Nat) : (s.delay d).pinFpgaReady = s.envTurn.pinFpgaReady := rfl
@[simp] theorem State.delay_busData (d : Nat) : (s.delay d).busData = s.envTurn.busData := rfl
@[simp] theorem State.delay_xferDone (d : Nat) : (s.delay d).xferDone = s.envTurn.xferDone := rfl
@[simp] theorem State.delay_xfer (d : Nat) : (s.delay d).xfer = s.xfer := rfl
@[simp] theorem State.delay_interbyte (d : Nat) : (s.delay d).interbyte = s.interbyte := rfl
@[simp] theorem State.delay_transaction (d : Nat) : (s.delay d).transaction = s.transaction := rfl
@[simp] theorem State.delay_frameBuf (d : Nat) : (s.delay d).frameBuf = s.frameBuf := rfl
@[simp] theorem State.delay_sum (d : Nat) : (s.delay d).sum = s.sum := rfl
@[simp] theorem State.delay_n (d : Nat) : (s.delay d).n = s.n := rfl
@[simp] theorem State.delay_rx (d : Nat) : (s.delay d).rx = s.envTurn.rx := rfl
@[simp] theorem State.delay_tx (d : Nat) : (s.delay d).tx = s.tx := rfl
@[simp] theorem State.delay_fpgaOut (d : Nat) : (s.delay d).fpgaOut = s.envTurn.fpgaOut := rfl
@[simp] theorem State.delay_sensorOutRear (d : Nat) : (s.delay d).sensorOutRear = s.sensorOutRear := rfl
@[simp] theorem State.delay_sensorOutFront (d : Nat) : (s.delay d).sensorOutFront = s.sensorOutFront := rfl
@[simp] theorem State.delay_env (d : Nat) : (s.delay d).env = s.envTurn.env := rfl
@[simp] theorem State.delay_rearAnswers (d : Nat) : (s.delay d).rearAnswers = s.rearAnswers := rfl
@[simp] theorem State.delay_frontAnswers (d : Nat) : (s.delay d).frontAnswers = s.frontAnswers := rfl
@[simp] theorem State.delay_draws (d : Nat) : (s.delay d).draws = s.draws := rfl
@[simp] theorem State.delay_params (d : Nat) : (s.delay d).params = s.params := rfl

/-! ### busSetRole -/

@[simp] theorem State.busSetRole_phase (r : BusRole) : (s.busSetRole r).phase = s.phase := rfl
@[simp] theorem State.busSetRole_crc (r : BusRole) : (s.busSetRole r).crc = s.crc := rfl
@[simp] theorem State.busSetRole_accelRear (r : BusRole) : (s.busSetRole r).accelRear = s.accelRear := rfl
@[simp] theorem State.busSetRole_accelFront (r : BusRole) : (s.busSetRole r).accelFront = s.accelFront := rfl
@[simp] theorem State.busSetRole_head (r : BusRole) : (s.busSetRole r).head = s.head := rfl
@[simp] theorem State.busSetRole_tail (r : BusRole) : (s.busSetRole r).tail = s.tail := rfl
@[simp] theorem State.busSetRole_count (r : BusRole) : (s.busSetRole r).count = s.count := rfl
@[simp] theorem State.busSetRole_qmem (r : BusRole) : (s.busSetRole r).qmem = s.qmem := rfl
@[simp] theorem State.busSetRole_buf (r : BusRole) : (s.busSetRole r).buf = s.buf := rfl
@[simp] theorem State.busSetRole_reportOnly (r : BusRole) : (s.busSetRole r).reportOnly = s.reportOnly := rfl
@[simp] theorem State.busSetRole_defer (r : BusRole) : (s.busSetRole r).defer = s.defer := rfl
@[simp] theorem State.busSetRole_busRole (r : BusRole) : (s.busSetRole r).busRole = r := rfl
@[simp] theorem State.busSetRole_pinAccelInit (r : BusRole) : (s.busSetRole r).pinAccelInit = s.pinAccelInit := rfl
@[simp] theorem State.busSetRole_pinFpgaEnable (r : BusRole) : (s.busSetRole r).pinFpgaEnable = s.pinFpgaEnable := rfl
@[simp] theorem State.busSetRole_pinCsRear (r : BusRole) : (s.busSetRole r).pinCsRear = s.pinCsRear := rfl
@[simp] theorem State.busSetRole_pinCsFront (r : BusRole) : (s.busSetRole r).pinCsFront = s.pinCsFront := rfl
@[simp] theorem State.busSetRole_pinFpgaReady (r : BusRole) : (s.busSetRole r).pinFpgaReady = s.envTurn.pinFpgaReady := rfl
@[simp] theorem State.busSetRole_busData (r : BusRole) : (s.busSetRole r).busData = s.envTurn.busData := rfl
@[simp] theorem State.busSetRole_xferDone (r : BusRole) : (s.busSetRole r).xferDone = s.envTurn.xferDone := rfl
@[simp] theorem State.busSetRole_xfer (r : BusRole) : (s.busSetRole r).xfer = s.xfer := rfl
@[simp] theorem State.busSetRole_interbyte (r : BusRole) : (s.busSetRole r).interbyte = s.interbyte := rfl
@[simp] theorem State.busSetRole_transaction (r : BusRole) : (s.busSetRole r).transaction = s.transaction := rfl
@[simp] theorem State.busSetRole_frameBuf (r : BusRole) : (s.busSetRole r).frameBuf = s.frameBuf := rfl
@[simp] theorem State.busSetRole_sum (r : BusRole) : (s.busSetRole r).sum = s.sum := rfl
@[simp] theorem State.busSetRole_n (r : BusRole) : (s.busSetRole r).n = s.n := rfl
@[simp] theorem State.busSetRole_rx (r : BusRole) : (s.busSetRole r).rx = s.envTurn.rx := rfl
@[simp] theorem State.busSetRole_tx (r : BusRole) : (s.busSetRole r).tx = s.tx := rfl
@[simp] theorem State.busSetRole_fpgaOut (r : BusRole) : (s.busSetRole r).fpgaOut = s.envTurn.fpgaOut := rfl
@[simp] theorem State.busSetRole_sensorOutRear (r : BusRole) : (s.busSetRole r).sensorOutRear = s.sensorOutRear := rfl
@[simp] theorem State.busSetRole_sensorOutFront (r : BusRole) : (s.busSetRole r).sensorOutFront = s.sensorOutFront := rfl
@[simp] theorem State.busSetRole_env (r : BusRole) : (s.busSetRole r).env = s.envTurn.env := rfl
@[simp] theorem State.busSetRole_rearAnswers (r : BusRole) : (s.busSetRole r).rearAnswers = s.rearAnswers := rfl
@[simp] theorem State.busSetRole_frontAnswers (r : BusRole) : (s.busSetRole r).frontAnswers = s.frontAnswers := rfl
@[simp] theorem State.busSetRole_draws (r : BusRole) : (s.busSetRole r).draws = s.draws := rfl
@[simp] theorem State.busSetRole_params (r : BusRole) : (s.busSetRole r).params = s.params := rfl

/-! ### busPoke -/

@[simp] theorem State.busPoke_phase (v : Byte) : (s.busPoke v).phase = s.phase := rfl
@[simp] theorem State.busPoke_crc (v : Byte) : (s.busPoke v).crc = s.crc := rfl
@[simp] theorem State.busPoke_accelRear (v : Byte) : (s.busPoke v).accelRear = s.accelRear := rfl
@[simp] theorem State.busPoke_accelFront (v : Byte) : (s.busPoke v).accelFront = s.accelFront := rfl
@[simp] theorem State.busPoke_head (v : Byte) : (s.busPoke v).head = s.head := rfl
@[simp] theorem State.busPoke_tail (v : Byte) : (s.busPoke v).tail = s.tail := rfl
@[simp] theorem State.busPoke_count (v : Byte) : (s.busPoke v).count = s.count := rfl
@[simp] theorem State.busPoke_qmem (v : Byte) : (s.busPoke v).qmem = s.qmem := rfl
@[simp] theorem State.busPoke_buf (v : Byte) : (s.busPoke v).buf = s.buf := rfl
@[simp] theorem State.busPoke_reportOnly (v : Byte) : (s.busPoke v).reportOnly = s.reportOnly := rfl
@[simp] theorem State.busPoke_defer (v : Byte) : (s.busPoke v).defer = s.defer := rfl
@[simp] theorem State.busPoke_busRole (v : Byte) : (s.busPoke v).busRole = s.busRole := rfl
@[simp] theorem State.busPoke_pinAccelInit (v : Byte) : (s.busPoke v).pinAccelInit = s.pinAccelInit := rfl
@[simp] theorem State.busPoke_pinFpgaEnable (v : Byte) : (s.busPoke v).pinFpgaEnable = s.pinFpgaEnable := rfl
@[simp] theorem State.busPoke_pinCsRear (v : Byte) : (s.busPoke v).pinCsRear = s.pinCsRear := rfl
@[simp] theorem State.busPoke_pinCsFront (v : Byte) : (s.busPoke v).pinCsFront = s.pinCsFront := rfl
@[simp] theorem State.busPoke_pinFpgaReady (v : Byte) : (s.busPoke v).pinFpgaReady = s.envTurn.pinFpgaReady := rfl
@[simp] theorem State.busPoke_busData (v : Byte) : (s.busPoke v).busData = v := rfl
@[simp] theorem State.busPoke_xferDone (v : Byte) : (s.busPoke v).xferDone = s.envTurn.xferDone := rfl
@[simp] theorem State.busPoke_xfer (v : Byte) : (s.busPoke v).xfer = s.xfer := rfl
@[simp] theorem State.busPoke_interbyte (v : Byte) : (s.busPoke v).interbyte = s.interbyte := rfl
@[simp] theorem State.busPoke_transaction (v : Byte) : (s.busPoke v).transaction = s.transaction := rfl
@[simp] theorem State.busPoke_frameBuf (v : Byte) : (s.busPoke v).frameBuf = s.frameBuf := rfl
@[simp] theorem State.busPoke_sum (v : Byte) : (s.busPoke v).sum = s.sum := rfl
@[simp] theorem State.busPoke_n (v : Byte) : (s.busPoke v).n = s.n := rfl
@[simp] theorem State.busPoke_rx (v : Byte) : (s.busPoke v).rx = s.envTurn.rx := rfl
@[simp] theorem State.busPoke_tx (v : Byte) : (s.busPoke v).tx = s.tx := rfl
@[simp] theorem State.busPoke_fpgaOut (v : Byte) : (s.busPoke v).fpgaOut = s.envTurn.fpgaOut := rfl
@[simp] theorem State.busPoke_sensorOutRear (v : Byte) : (s.busPoke v).sensorOutRear = s.sensorOutRear := rfl
@[simp] theorem State.busPoke_sensorOutFront (v : Byte) : (s.busPoke v).sensorOutFront = s.sensorOutFront := rfl
@[simp] theorem State.busPoke_env (v : Byte) : (s.busPoke v).env = s.envTurn.env := rfl
@[simp] theorem State.busPoke_rearAnswers (v : Byte) : (s.busPoke v).rearAnswers = s.rearAnswers := rfl
@[simp] theorem State.busPoke_frontAnswers (v : Byte) : (s.busPoke v).frontAnswers = s.frontAnswers := rfl
@[simp] theorem State.busPoke_draws (v : Byte) : (s.busPoke v).draws = s.draws := rfl
@[simp] theorem State.busPoke_params (v : Byte) : (s.busPoke v).params = s.params := rfl

/-! ### beginTransfer -/

@[simp] theorem State.beginTransfer_phase (v : Byte) : (s.beginTransfer v).phase = s.phase := rfl
@[simp] theorem State.beginTransfer_crc (v : Byte) : (s.beginTransfer v).crc = s.crc := rfl
@[simp] theorem State.beginTransfer_accelRear (v : Byte) : (s.beginTransfer v).accelRear = s.accelRear := rfl
@[simp] theorem State.beginTransfer_accelFront (v : Byte) : (s.beginTransfer v).accelFront = s.accelFront := rfl
@[simp] theorem State.beginTransfer_head (v : Byte) : (s.beginTransfer v).head = s.head := rfl
@[simp] theorem State.beginTransfer_tail (v : Byte) : (s.beginTransfer v).tail = s.tail := rfl
@[simp] theorem State.beginTransfer_count (v : Byte) : (s.beginTransfer v).count = s.count := rfl
@[simp] theorem State.beginTransfer_qmem (v : Byte) : (s.beginTransfer v).qmem = s.qmem := rfl
@[simp] theorem State.beginTransfer_buf (v : Byte) : (s.beginTransfer v).buf = s.buf := rfl
@[simp] theorem State.beginTransfer_reportOnly (v : Byte) : (s.beginTransfer v).reportOnly = s.reportOnly := rfl
@[simp] theorem State.beginTransfer_defer (v : Byte) : (s.beginTransfer v).defer = s.defer := rfl
@[simp] theorem State.beginTransfer_busRole (v : Byte) : (s.beginTransfer v).busRole = s.busRole := rfl
@[simp] theorem State.beginTransfer_pinAccelInit (v : Byte) : (s.beginTransfer v).pinAccelInit = s.pinAccelInit := rfl
@[simp] theorem State.beginTransfer_pinFpgaEnable (v : Byte) : (s.beginTransfer v).pinFpgaEnable = s.pinFpgaEnable := rfl
@[simp] theorem State.beginTransfer_pinCsRear (v : Byte) : (s.beginTransfer v).pinCsRear = s.pinCsRear := rfl
@[simp] theorem State.beginTransfer_pinCsFront (v : Byte) : (s.beginTransfer v).pinCsFront = s.pinCsFront := rfl
@[simp] theorem State.beginTransfer_pinFpgaReady (v : Byte) : (s.beginTransfer v).pinFpgaReady = s.envTurn.pinFpgaReady := rfl
@[simp] theorem State.beginTransfer_busData (v : Byte) : (s.beginTransfer v).busData = v := rfl
@[simp] theorem State.beginTransfer_xferDone (v : Byte) : (s.beginTransfer v).xferDone = false := rfl
@[simp] theorem State.beginTransfer_xfer (v : Byte) : (s.beginTransfer v).xfer = some v := rfl
@[simp] theorem State.beginTransfer_interbyte (v : Byte) : (s.beginTransfer v).interbyte = s.interbyte := rfl
@[simp] theorem State.beginTransfer_transaction (v : Byte) : (s.beginTransfer v).transaction = s.transaction := rfl
@[simp] theorem State.beginTransfer_frameBuf (v : Byte) : (s.beginTransfer v).frameBuf = s.frameBuf := rfl
@[simp] theorem State.beginTransfer_sum (v : Byte) : (s.beginTransfer v).sum = s.sum := rfl
@[simp] theorem State.beginTransfer_n (v : Byte) : (s.beginTransfer v).n = s.n := rfl
@[simp] theorem State.beginTransfer_rx (v : Byte) : (s.beginTransfer v).rx = s.envTurn.rx := rfl
@[simp] theorem State.beginTransfer_tx (v : Byte) : (s.beginTransfer v).tx = s.tx := rfl
@[simp] theorem State.beginTransfer_fpgaOut (v : Byte) : (s.beginTransfer v).fpgaOut = s.envTurn.fpgaOut := rfl
@[simp] theorem State.beginTransfer_sensorOutRear (v : Byte) : (s.beginTransfer v).sensorOutRear = s.sensorOutRear := rfl
@[simp] theorem State.beginTransfer_sensorOutFront (v : Byte) : (s.beginTransfer v).sensorOutFront = s.sensorOutFront := rfl
@[simp] theorem State.beginTransfer_env (v : Byte) : (s.beginTransfer v).env = s.envTurn.env := rfl
@[simp] theorem State.beginTransfer_rearAnswers (v : Byte) : (s.beginTransfer v).rearAnswers = s.rearAnswers := rfl
@[simp] theorem State.beginTransfer_frontAnswers (v : Byte) : (s.beginTransfer v).frontAnswers = s.frontAnswers := rfl
@[simp] theorem State.beginTransfer_draws (v : Byte) : (s.beginTransfer v).draws = s.draws := rfl
@[simp] theorem State.beginTransfer_params (v : Byte) : (s.beginTransfer v).params = s.params := rfl

end Sys2Proof.Machine
end

