-- ==== Sys2Proof/Laws/Env.lean ====
section
/-! SUPPORT. What turns of the environment do: they append to RX, use up `env`, and depend on nothing but the bus, the
ready pin and `env`. -/

namespace Sys2Proof.Machine

/-- The bytes HOST appends in the next `k` turns. -/
def State.hostIn (k : Nat) (s : State) : List Byte := (s.env.take k).flatMap hostBytes

theorem State.hostIn_zero (s : State) : s.hostIn 0 = [] := rfl

theorem State.hostIn_congr {s t : State} (he : t.env = s.env) (k : Nat) : t.hostIn k = s.hostIn k := by
  simp [State.hostIn, he]

theorem State.hostIn_succ (k : Nat) (s : State) :
    s.hostIn (k + 1) = hostBytes s.nextMoves ++ s.envTurn.hostIn k := by
  rcases h : s.env with _ | ⟨ms, rest⟩ <;>
    simp [State.hostIn, State.nextMoves, h, hostBytes]

theorem State.envTurn_rx (s : State) : s.envTurn.rx = s.rx ++ hostBytes s.nextMoves := rfl

@[simp] theorem State.envTurns_zero (s : State) : s.envTurns 0 = s := rfl

theorem State.envTurns_succ (k : Nat) (s : State) : s.envTurns (k + 1) = s.envTurn.envTurns k := rfl

theorem State.envTurns_add (j k : Nat) (s : State) : s.envTurns (j + k) = (s.envTurns j).envTurns k := by
  induction j generalizing s with
  | zero => simp
  | succ j ih => rw [Nat.add_right_comm]; exact ih s.envTurn

theorem State.envTurns_one (s : State) : s.envTurns 1 = s.envTurn := rfl

theorem State.envTurn_envTurns (k : Nat) (s : State) : (s.envTurns k).envTurn = s.envTurns (k + 1) :=
  (State.envTurns_add k 1 s).symm

@[simp] theorem State.envTurns_env (k : Nat) (s : State) : (s.envTurns k).env = s.env.drop k := by
  induction k generalizing s with
  | zero => simp
  | succ k ih => simp [State.envTurns_succ, ih]

theorem State.envTurns_rx (k : Nat) (s : State) : (s.envTurns k).rx = s.rx ++ s.hostIn k := by
  induction k generalizing s with
  | zero => simp [State.hostIn_zero]
  | succ k ih => simp [State.envTurns_succ, ih, State.envTurn_rx, State.hostIn_succ]

/-- Two states look the same to the environment's turns, RX apart. -/
structure EnvSame (s t : State) : Prop where
  env : t.env = s.env
  ready : t.pinFpgaReady = s.pinFpgaReady
  data : t.busData = s.busData
  done : t.xferDone = s.xferDone
  out : t.fpgaOut = s.fpgaOut
  role : t.busRole = s.busRole
  xfer : t.xfer = s.xfer

theorem EnvSame.envTurn {s t : State} (h : EnvSame s t) : EnvSame s.envTurn t.envTurn := by
  obtain ⟨he, hp, hd, hx, ho, hr, hf⟩ := h
  constructor <;>
    simp [State.envTurn, State.busAfterTurn, State.nextMoves, he, hp, hd, hx, ho, hr, hf]

/-- A turn of the environment, seen from a state that looks the same to it: only these six fields change. -/
theorem EnvSame.envTurn_eq {s t : State} (h : EnvSame s t) :
    t.envTurn = { t with
      env := s.envTurn.env
      rx := t.rx ++ hostBytes s.nextMoves
      pinFpgaReady := s.envTurn.pinFpgaReady
      busData := s.envTurn.busData
      xferDone := s.envTurn.xferDone
      fpgaOut := s.envTurn.fpgaOut } := by
  have h' := h.envTurn
  rw [← h'.env, ← h'.ready, ← h'.data, ← h'.done, ← h'.out]
  simp only [State.nextMoves, ← h.env]
  rfl

/-- Any number of turns, seen from a state that looks the same to the environment. -/
theorem EnvSame.envTurns_eq {s t : State} (h : EnvSame s t) (k : Nat) :
    t.envTurns k = { t with
      env := (s.envTurns k).env
      rx := t.rx ++ s.hostIn k
      pinFpgaReady := (s.envTurns k).pinFpgaReady
      busData := (s.envTurns k).busData
      xferDone := (s.envTurns k).xferDone
      fpgaOut := (s.envTurns k).fpgaOut } := by
  induction k generalizing s t with
  | zero =>
    obtain ⟨he, hp, hd, hx, ho, hr, hf⟩ := h
    simp [State.hostIn_zero, ← he, ← hp, ← hd, ← hx, ← ho]
  | succ k ih =>
    rw [State.envTurns_succ, ih h.envTurn, State.envTurns_succ, State.hostIn_succ, h.envTurn_eq]
    simp

theorem EnvSame.refl (s : State) : EnvSame s s := ⟨rfl, rfl, rfl, rfl, rfl, rfl, rfl⟩

/-- Turns of the environment change these six fields only. -/
theorem State.envTurns_eq (k : Nat) (s : State) :
    s.envTurns k = { s with
      env := (s.envTurns k).env
      rx := (s.envTurns k).rx
      pinFpgaReady := (s.envTurns k).pinFpgaReady
      busData := (s.envTurns k).busData
      xferDone := (s.envTurns k).xferDone
      fpgaOut := (s.envTurns k).fpgaOut } := by
  conv_lhs => rw [(EnvSame.refl s).envTurns_eq k]
  rw [← State.envTurns_rx]

/-! One lemma per field that no turn writes. -/

@[simp] theorem State.envTurns_phase (k : Nat) (s : State) : (s.envTurns k).phase = s.phase := by
  rw [State.envTurns_eq]

@[simp] theorem State.envTurns_crc (k : Nat) (s : State) : (s.envTurns k).crc = s.crc := by
  rw [State.envTurns_eq]

@[simp] theorem State.envTurns_accelRear (k : Nat) (s : State) : (s.envTurns k).accelRear = s.accelRear := by
  rw [State.envTurns_eq]

@[simp] theorem State.envTurns_accelFront (k : Nat) (s : State) : (s.envTurns k).accelFront = s.accelFront := by
  rw [State.envTurns_eq]

@[simp] theorem State.envTurns_head (k : Nat) (s : State) : (s.envTurns k).head = s.head := by
  rw [State.envTurns_eq]

@[simp] theorem State.envTurns_tail (k : Nat) (s : State) : (s.envTurns k).tail = s.tail := by
  rw [State.envTurns_eq]

@[simp] theorem State.envTurns_count (k : Nat) (s : State) : (s.envTurns k).count = s.count := by
  rw [State.envTurns_eq]

@[simp] theorem State.envTurns_qmem (k : Nat) (s : State) : (s.envTurns k).qmem = s.qmem := by
  rw [State.envTurns_eq]

@[simp] theorem State.envTurns_buf (k : Nat) (s : State) : (s.envTurns k).buf = s.buf := by
  rw [State.envTurns_eq]

@[simp] theorem State.envTurns_reportOnly (k : Nat) (s : State) : (s.envTurns k).reportOnly = s.reportOnly := by
  rw [State.envTurns_eq]

@[simp] theorem State.envTurns_defer (k : Nat) (s : State) : (s.envTurns k).defer = s.defer := by
  rw [State.envTurns_eq]

@[simp] theorem State.envTurns_busRole (k : Nat) (s : State) : (s.envTurns k).busRole = s.busRole := by
  rw [State.envTurns_eq]

@[simp] theorem State.envTurns_pinAccelInit (k : Nat) (s : State) : (s.envTurns k).pinAccelInit = s.pinAccelInit := by
  rw [State.envTurns_eq]

@[simp] theorem State.envTurns_pinFpgaEnable (k : Nat) (s : State) : (s.envTurns k).pinFpgaEnable = s.pinFpgaEnable := by
  rw [State.envTurns_eq]

@[simp] theorem State.envTurns_pinCsRear (k : Nat) (s : State) : (s.envTurns k).pinCsRear = s.pinCsRear := by
  rw [State.envTurns_eq]

@[simp] theorem State.envTurns_pinCsFront (k : Nat) (s : State) : (s.envTurns k).pinCsFront = s.pinCsFront := by
  rw [State.envTurns_eq]

@[simp] theorem State.envTurns_xfer (k : Nat) (s : State) : (s.envTurns k).xfer = s.xfer := by
  rw [State.envTurns_eq]

@[simp] theorem State.envTurns_interbyte (k : Nat) (s : State) : (s.envTurns k).interbyte = s.interbyte := by
  rw [State.envTurns_eq]

@[simp] theorem State.envTurns_transaction (k : Nat) (s : State) : (s.envTurns k).transaction = s.transaction := by
  rw [State.envTurns_eq]

@[simp] theorem State.envTurns_frameBuf (k : Nat) (s : State) : (s.envTurns k).frameBuf = s.frameBuf := by
  rw [State.envTurns_eq]

@[simp] theorem State.envTurns_sum (k : Nat) (s : State) : (s.envTurns k).sum = s.sum := by
  rw [State.envTurns_eq]

@[simp] theorem State.envTurns_n (k : Nat) (s : State) : (s.envTurns k).n = s.n := by
  rw [State.envTurns_eq]

@[simp] theorem State.envTurns_tx (k : Nat) (s : State) : (s.envTurns k).tx = s.tx := by
  rw [State.envTurns_eq]

@[simp] theorem State.envTurns_sensorOutRear (k : Nat) (s : State) : (s.envTurns k).sensorOutRear = s.sensorOutRear := by
  rw [State.envTurns_eq]

@[simp] theorem State.envTurns_sensorOutFront (k : Nat) (s : State) : (s.envTurns k).sensorOutFront = s.sensorOutFront := by
  rw [State.envTurns_eq]

@[simp] theorem State.envTurns_rearAnswers (k : Nat) (s : State) : (s.envTurns k).rearAnswers = s.rearAnswers := by
  rw [State.envTurns_eq]

@[simp] theorem State.envTurns_frontAnswers (k : Nat) (s : State) : (s.envTurns k).frontAnswers = s.frontAnswers := by
  rw [State.envTurns_eq]

@[simp] theorem State.envTurns_draws (k : Nat) (s : State) : (s.envTurns k).draws = s.draws := by
  rw [State.envTurns_eq]

@[simp] theorem State.envTurns_params (k : Nat) (s : State) : (s.envTurns k).params = s.params := by
  rw [State.envTurns_eq]

/-- Outside `SLAVE` role the FPGA's moves on the bus have no effect (rule R331, U6). -/
theorem State.busAfterTurn_of_not_slave {s : State} (h : s.busRole ≠ .slave) :
    s.busAfterTurn = { data := s.busData, done := s.xferDone, out := s.fpgaOut } := by
  have key : ∀ (ms : List EnvMove) (v : BusView), ms.foldl (busMove s.busRole s.xfer) v = v := by
    intro ms
    induction ms with
    | nil => intro v; rfl
    | cons m ms ih =>
      intro v
      have hm : busMove s.busRole s.xfer v m = v := by
        cases m <;> simp only [busMove] <;> cases hr : s.busRole <;> simp_all
      simp [hm, ih]
  exact key _ _

/-- Outside `SLAVE` role no number of turns touches the bus or FPGA_OUT. -/
theorem State.envTurns_bus_of_not_slave (k : Nat) {s : State} (h : s.busRole ≠ .slave) :
    (s.envTurns k).busData = s.busData ∧ (s.envTurns k).xferDone = s.xferDone ∧ (s.envTurns k).fpgaOut = s.fpgaOut := by
  induction k with
  | zero => exact ⟨rfl, rfl, rfl⟩
  | succ k ih =>
    rw [← State.envTurn_envTurns]
    have := State.busAfterTurn_of_not_slave (s := s.envTurns k) (by simpa using h)
    exact ⟨(congrArg (·.data) this).trans ih.1, (congrArg (·.done) this).trans ih.2.1,
      (congrArg (·.out) this).trans ih.2.2⟩

/-- With no slave transfer in progress, a turn leaves XFER_DONE and FPGA_OUT alone. -/
theorem State.busAfterTurn_of_no_xfer {s : State} (h : s.xfer = none) :
    s.busAfterTurn.done = s.xferDone ∧ s.busAfterTurn.out = s.fpgaOut := by
  have key : ∀ (ms : List EnvMove) (v : BusView),
      (ms.foldl (busMove s.busRole s.xfer) v).done = v.done ∧
        (ms.foldl (busMove s.busRole s.xfer) v).out = v.out := by
    intro ms
    induction ms with
    | nil => intro v; exact ⟨rfl, rfl⟩
    | cons m ms ih =>
      intro v
      have hm : (busMove s.busRole s.xfer v m).done = v.done ∧
          (busMove s.busRole s.xfer v m).out = v.out := by
        cases m <;> cases hr : s.busRole <;> simp [busMove, h]
      simp only [List.foldl_cons]
      exact ⟨(ih _).1.trans hm.1, (ih _).2.trans hm.2⟩
  exact key _ _

/-- With no slave transfer in progress, no number of turns touches XFER_DONE or FPGA_OUT. -/
theorem State.envTurns_of_no_xfer (k : Nat) {s : State} (h : s.xfer = none) :
    (s.envTurns k).xferDone = s.xferDone ∧ (s.envTurns k).fpgaOut = s.fpgaOut := by
  induction k with
  | zero => exact ⟨rfl, rfl⟩
  | succ k ih =>
    rw [← State.envTurn_envTurns]
    have := State.busAfterTurn_of_no_xfer (s := s.envTurns k) (by simpa using h)
    exact ⟨this.1.trans ih.1, this.2.trans ih.2⟩

/-- A turn during a slave transfer that is not complete: either it stays incomplete and nothing is sent, or the FPGA
clocks it and receives exactly the byte sent (rule R37). -/
theorem State.busAfterTurn_of_xfer {s : State} {b : Byte} (hr : s.busRole = .slave) (hx : s.xfer = some b)
    (hd : s.xferDone = false) :
    (s.busAfterTurn.done = false ∧ s.busAfterTurn.out = s.fpgaOut) ∨
      (s.busAfterTurn.done = true ∧ s.busAfterTurn.out = s.fpgaOut ++ [b]) := by
  have done_stays : ∀ (ms : List EnvMove) (v : BusView), v.done = true →
      (ms.foldl (busMove s.busRole s.xfer) v).done = true ∧
        (ms.foldl (busMove s.busRole s.xfer) v).out = v.out := by
    intro ms
    induction ms with
    | nil => intro v hv; exact ⟨hv, rfl⟩
    | cons m ms ih =>
      intro v hv
      have hm : (busMove s.busRole s.xfer v m).done = true ∧
          (busMove s.busRole s.xfer v m).out = v.out := by
        cases m <;> simp [busMove, hr, hx, hv]
      simp only [List.foldl_cons]
      exact ⟨(ih _ hm.1).1, (ih _ hm.1).2.trans hm.2⟩
  have key : ∀ (ms : List EnvMove) (v : BusView), v.done = false →
      ((ms.foldl (busMove s.busRole s.xfer) v).done = false ∧
          (ms.foldl (busMove s.busRole s.xfer) v).out = v.out) ∨
        ((ms.foldl (busMove s.busRole s.xfer) v).done = true ∧
          (ms.foldl (busMove s.busRole s.xfer) v).out = v.out ++ [b]) := by
    intro ms
    induction ms with
    | nil => intro v hv; exact .inl ⟨hv, rfl⟩
    | cons m ms ih =>
      intro v hv
      simp only [List.foldl_cons]
      cases m with
      | fpgaClock c =>
        have := done_stays ms (busMove s.busRole s.xfer v (.fpgaClock c)) (by simp [busMove, hr, hx, hv])
        exact .inr ⟨this.1, by simpa [busMove, hr, hx, hv] using this.2⟩
      | fpgaWrite c => simpa [busMove, hr] using ih (busMove s.busRole s.xfer v (.fpgaWrite c)) (by simp [busMove, hr, hv])
      | hostByte c => simpa [busMove] using ih v hv
      | fpgaReady l => simpa [busMove] using ih v hv
  exact key _ _ hd

end Sys2Proof.Machine
end

