-- ==== Sys2Proof/Laws/Crc.lean ====
section
/-! SUPPORT. The Integrity Layer: each operation as one record, the fold over a concatenation, and the facts about one
byte that single-bit detection and the residue rest on (rule R148). -/

namespace Sys2Proof.Machine

theorem crcFrom_nil (acc : Half) : crcFrom acc [] = acc := rfl

theorem crcFrom_cons (acc : Half) (b : Byte) (bs : List Byte) :
    crcFrom acc (b :: bs) = crcFrom (crcByte acc b) bs := rfl

theorem crcFrom_append (acc : Half) (xs ys : List Byte) :
    crcFrom acc (xs ++ ys) = crcFrom (crcFrom acc xs) ys := by
  simp [crcFrom]

/-- `CrcFold` writes `crc` and nothing else (rule R141). -/
theorem State.crcFold_eq (bytes : List Byte) (carry : Bool) (s : State) :
    s.crcFold bytes carry =
      { s with crc := crcFrom (if carry then s.crc else Params.crcInit) bytes } := by
  cases carry <;> rfl

/-- `SendResponse` (rule R165): the checksum is that of the opcode and the payload (rule R95). -/
theorem State.sendResponse_eq (opcode : Byte) (payload : List Byte) (s : State) :
    s.sendResponse opcode payload =
      { s.envTurn with
        crc := crc16 (opcode :: payload)
        tx := s.tx ++ (payload ++ [hi8 (crc16 (opcode :: payload)), lo8 (crc16 (opcode :: payload))]) } := by
  rw [State.sendResponse, State.crcFold_eq, State.crcFold_eq]
  rfl

/-- A 16-bit value is its two bytes (rule R62). -/
theorem joinBytes_hi_lo (v : Half) : joinBytes (hi8 v) (lo8 v) = v := by
  apply BitVec.eq_of_getLsbD_eq
  intro i hi
  simp only [joinBytes, hi8, lo8, BitVec.getLsbD_append, BitVec.getLsbD_extractLsb']
  rcases Nat.lt_or_ge i 8 with h | h
  · simp [h]
  · have : 8 + (i - 8) = i := by omega
    have h8 : i - 8 < 8 := by omega
    simp [Nat.not_lt.mpr h, this, h8]

theorem hi8_joinBytes (hi lo : Byte) : hi8 (joinBytes hi lo) = hi := by
  apply BitVec.eq_of_getLsbD_eq
  intro i h
  rw [hi8, BitVec.getLsbD_extractLsb', joinBytes, BitVec.getLsbD_append]
  simp [h]

theorem lo8_joinBytes (hi lo : Byte) : lo8 (joinBytes hi lo) = lo := by
  apply BitVec.eq_of_getLsbD_eq
  intro i h
  rw [lo8, BitVec.getLsbD_extractLsb', joinBytes, BitVec.getLsbD_append]
  simp [h]

theorem crcRound_bit (a : Half) (i : Nat) (h : i < 16) :
    (crcRound a).getLsbD i =
      ((decide (1 ≤ i) && a.getLsbD (i - 1)) ^^ (a.getLsbD 15 && Params.crcPoly.getLsbD i)) := by
  have hs : (a <<< 1).getLsbD i = (decide (1 ≤ i) && a.getLsbD (i - 1)) := by
    rw [BitVec.getLsbD_shiftLeft]
    by_cases h1 : 1 ≤ i
    · simp [h, h1, Nat.not_lt.mpr h1]
    · simp [h, h1, show i < 1 by omega]
  unfold crcRound
  cases h15 : a.getLsbD 15 <;> simp only [Bool.false_eq_true, if_false, if_true, BitVec.getLsbD_xor, hs,
    Bool.false_and, Bool.true_and, Bool.xor_false]

/-- A round loses nothing (rule R148): bit 0 of the result is the bit shifted out. -/
theorem crcRound_injective : Function.Injective crcRound := by
  intro a b h
  have bit : ∀ i < 16, (crcRound a).getLsbD i = (crcRound b).getLsbD i := fun i _ => by rw [h]
  have h15 : a.getLsbD 15 = b.getLsbD 15 := by
    have h0 := bit 0 (by omega)
    rw [crcRound_bit a 0 (by omega), crcRound_bit b 0 (by omega)] at h0
    simpa [Params.crcPoly] using h0
  apply BitVec.eq_of_getLsbD_eq
  intro i hi
  rcases Nat.lt_or_ge i 15 with hlt | hge
  · have hs := bit (i + 1) (by omega)
    rw [crcRound_bit a _ (by omega), crcRound_bit b _ (by omega), h15] at hs
    simpa using hs
  · obtain rfl : i = 15 := by omega
    exact h15

theorem crcRounds_injective (k : Nat) : Function.Injective (crcRounds k) := by
  induction k with
  | zero => intro a b h; exact h
  | succ k ih => intro a b h; exact crcRound_injective (ih h)

/-- Two accumulators that differ stay different under an equal byte (rule R148). -/
theorem crcByte_injective (b : Byte) : Function.Injective fun acc => crcByte acc b := by
  intro x y h
  have := crcRounds_injective 8 h
  simpa using this

theorem crcFrom_injective (bs : List Byte) : Function.Injective fun acc => crcFrom acc bs := by
  induction bs with
  | nil => intro x y h; exact h
  | cons b bs ih => intro x y h; exact crcByte_injective b (ih h)

/-- Two bytes that differ leave different accumulators (rule R148). -/
theorem crcByte_injective_right (acc : Half) : Function.Injective fun b => crcByte acc b := by
  intro x y h
  have h2 : x.setWidth 16 <<< 8 = y.setWidth 16 <<< 8 :=
    by simpa using crcRounds_injective 8 h
  apply BitVec.eq_of_getLsbD_eq
  intro i hi
  have := congrArg (fun v => v.getLsbD (i + 8)) h2
  simpa [BitVec.getLsbD_shiftLeft, BitVec.getLsbD_setWidth, show i + 8 < 16 by omega,
    show i < 16 by omega] using this

/-- Folding a checksum's own bytes, high byte first, leaves zero (rule R148). -/
theorem crcFrom_own_checksum (c : Half) : crcFrom c [hi8 c, lo8 c] = 0 := by
  have low : ∀ l : Byte, crcRounds 8 (l.setWidth 16) = l.setWidth 16 <<< 8 := by decide +kernel
  have hi : c ^^^ ((hi8 c).setWidth 16 <<< 8) = (lo8 c).setWidth 16 := by
    apply BitVec.eq_of_getLsbD_eq
    intro i hi
    simp only [hi8, lo8, BitVec.getLsbD_xor, BitVec.getLsbD_shiftLeft, BitVec.getLsbD_setWidth,
      BitVec.getLsbD_extractLsb']
    rcases Nat.lt_or_ge i 8 with h | h
    · simp [h, hi]
    · have h8 : i - 8 < 8 := by omega
      have h8' : i - 8 < 16 := by omega
      have : 8 + (i - 8) = i := by omega
      simp [hi, Nat.not_lt.mpr h, h8, h8', this]
  have first : crcByte c (hi8 c) = (lo8 c).setWidth 16 <<< 8 := by rw [crcByte, hi, low]
  rw [crcFrom_cons, crcFrom_cons, crcFrom_nil, first, crcByte, BitVec.xor_self]
  decide

end Sys2Proof.Machine
end

