-- ==== Sys2Proof/Laws/Memory.lean ====
section
/-! SUPPORT. QMEM: reading after writing, and that every memory operation keeps the canonical form (rules R10, R60). -/

namespace Sys2Proof.Machine

theorem Memory.read_write (m : Memory) (k : Nat) (v : Byte) (j : Nat) :
    (m.write k v).read j = if j = k then some v else m.read j := by
  induction m with
  | nil => by_cases h : j = k <;> simp [Memory.write, Memory.read, h]
  | cons c m ih =>
    obtain ⟨a, b⟩ := c
    by_cases h1 : k < a
    · by_cases h : j = k <;> simp [Memory.write, Memory.read, h1, h]
    · by_cases h2 : k = a
      · subst h2
        by_cases h : j = k <;> simp [Memory.write, Memory.read, h]
      · by_cases h3 : j = a
        · have : ¬ j = k := by omega
          simp [Memory.write, Memory.read, h1, h2, h3, Ne.symm h2]
        · simp [Memory.write, Memory.read, h1, h2, h3, ih]

theorem Memory.mem_write {m : Memory} {k : Nat} {v : Byte} {c : Host.Cell} (h : c ∈ m.write k v) :
    c = (k, v) ∨ c ∈ m := by
  induction m with
  | nil => simpa [Memory.write] using h
  | cons d m ih =>
    obtain ⟨a, b⟩ := d
    simp only [Memory.write] at h
    split at h
    · simpa using h
    · split at h
      · simp only [List.mem_cons] at h ⊢
        tauto
      · simp only [List.mem_cons] at h ⊢
        rcases h with h | h
        · exact .inr (.inl h)
        · rcases ih h with h | h
          · exact .inl h
          · exact .inr (.inr h)

/-- Writing a byte of QMEM keeps the canonical form. -/
theorem Memory.wf_write {m : Memory} (h : m.wf) {k : Nat} (hk : k < 2600) (v : Byte) : (m.write k v).wf := by
  refine ⟨?_, ?_⟩
  · have hp := h.1
    clear h
    induction m with
    | nil => simp [Memory.write]
    | cons d m ih =>
      obtain ⟨a, b⟩ := d
      rw [List.pairwise_cons] at hp
      simp only [Memory.write]
      split
      · rename_i hlt
        refine List.pairwise_cons.mpr ⟨?_, List.pairwise_cons.mpr hp⟩
        intro c hc
        rcases List.mem_cons.mp hc with rfl | hc
        · exact hlt
        · exact Nat.lt_trans hlt (hp.1 c hc)
      · split
        · rename_i heq
          subst heq
          exact List.pairwise_cons.mpr hp
        · refine List.pairwise_cons.mpr ⟨?_, ih hp.2⟩
          intro c hc
          rcases Memory.mem_write hc with rfl | hc
          · simp only
            omega
          · exact hp.1 c hc
  · intro c hc
    rcases Memory.mem_write hc with rfl | hc
    · exact hk
    · exact h.2 c hc

theorem Memory.read_writeBytes (l : List Byte) : ∀ (m : Memory) (a j : Nat),
    (m.writeBytes a l).read j = if a ≤ j ∧ j < a + l.length then l[j - a]? else m.read j := by
  induction l with
  | nil => intro m a j; simp [Memory.writeBytes]
  | cons b l ih =>
    intro m a j
    rw [Memory.writeBytes, ih, Memory.read_write]
    simp only [List.length_cons]
    by_cases h0 : j = a
    · subst h0
      simp
    · by_cases h1 : a + 1 ≤ j ∧ j < a + 1 + l.length
      · have h2 : a ≤ j ∧ j < a + (l.length + 1) := by omega
        obtain ⟨d, hd⟩ : ∃ d, j - a = d + 1 := ⟨j - a - 1, by omega⟩
        have hd' : j - (a + 1) = d := by omega
        simp [h1, h2, hd, hd']
      · have h2 : ¬ (a ≤ j ∧ j < a + (l.length + 1)) := by omega
        rw [if_neg h1, if_neg h2, if_neg h0]

theorem Memory.wf_writeBytes (l : List Byte) : ∀ {m : Memory} {a : Nat}, m.wf → a + l.length ≤ 2600 →
    (m.writeBytes a l).wf := by
  induction l with
  | nil => intro m a h _; exact h
  | cons b l ih =>
    intro m a h ha
    simp only [List.length_cons] at ha
    exact ih (Memory.wf_write h (by omega) b) (by omega)

theorem slotAddr_le (slot : Fin 200) : slotAddr slot + 13 ≤ 2600 := by
  have := slot.isLt
  simp only [slotAddr]
  omega

/-- Storing a Command keeps the canonical form. -/
theorem Memory.wf_writeSlot {m : Memory} (h : m.wf) (slot : Fin 200) (cmd : Command) : (m.writeSlot slot cmd).wf :=
  Memory.wf_writeBytes _ h (by simpa using slotAddr_le slot)

/-- Reading a byte after storing a Command: its own bytes in the slot, every other byte as before (rule R60). -/
theorem Memory.read_writeSlot (m : Memory) (slot : Fin 200) (cmd : Command) (j : Nat) :
    (m.writeSlot slot cmd).read j =
      if slotAddr slot ≤ j ∧ j < slotAddr slot + 13 then cmd[j - slotAddr slot]? else m.read j := by
  rw [Memory.writeSlot, Memory.read_writeBytes]
  simp

/-- What a slot reads as depends only on its own 13 bytes. -/
theorem Memory.readSlot_congr {m m' : Memory} {slot : Fin 200}
    (h : ∀ i < 13, m'.read (slotAddr slot + i) = m.read (slotAddr slot + i)) :
    m'.readSlot slot = m.readSlot slot ∧ m'.slotWritten slot = m.slotWritten slot := by
  have hw : m'.slotWritten slot = m.slotWritten slot := by
    simp only [Memory.slotWritten]
    rw [Bool.eq_iff_iff, List.all_eq_true, List.all_eq_true]
    constructor <;> intro hall i hi
    · rw [← h i (by simpa using hi)]
      exact hall i hi
    · rw [h i (by simpa using hi)]
      exact hall i hi
  have hl : (List.range 13).map (fun i => (m'.read (slotAddr slot + i)).getD 0x00) =
      (List.range 13).map fun i => (m.read (slotAddr slot + i)).getD 0x00 := by
    apply List.map_congr_left
    intro i hi
    rw [h i (by simpa using hi)]
  refine ⟨?_, hw⟩
  simp only [Memory.readSlot, hw, hl]

theorem Memory.readSlot_isSome {m : Memory} {slot : Fin 200} (h : m.slotWritten slot = true) :
    ∃ cmd, m.readSlot slot = some cmd := by
  simp only [Memory.readSlot, h, if_true]
  exact ⟨_, rfl⟩

/-- The bytes of the Command read from a slot are the bytes written there. -/
theorem Memory.readSlot_get {m : Memory} {slot : Fin 200} {cmd : Command} (h : m.readSlot slot = some cmd) (i : Fin 13) :
    m.read (slotAddr slot + i.val) = some (cmd.get i) := by
  by_cases hw : m.slotWritten slot = true
  · simp only [Memory.readSlot, hw, if_true, Option.some.injEq] at h
    subst h
    simp only [Memory.slotWritten, List.all_eq_true, List.mem_range] at hw
    obtain ⟨b, hb⟩ := Option.isSome_iff_exists.mp (hw i.val i.isLt)
    simp [Vector.get, hb]
  · simp [Memory.readSlot, hw] at h

/-- Storing a Command leaves every other slot as it was. -/
theorem Memory.readSlot_writeSlot_ne (m : Memory) {slot other : Fin 200} (h : other ≠ slot) (cmd : Command) :
    (m.writeSlot slot cmd).readSlot other = m.readSlot other ∧
      (m.writeSlot slot cmd).slotWritten other = m.slotWritten other := by
  apply Memory.readSlot_congr
  intro i hi
  rw [Memory.read_writeSlot, if_neg]
  have : other.val ≠ slot.val := fun e => h (Fin.ext e)
  simp only [slotAddr]
  omega

/-- A slot returns the Command stored in it. -/
theorem Memory.readSlot_writeSlot_same (m : Memory) (slot : Fin 200) (cmd : Command) :
    (m.writeSlot slot cmd).readSlot slot = some cmd ∧ (m.writeSlot slot cmd).slotWritten slot = true := by
  have hr : ∀ i < 13, (m.writeSlot slot cmd).read (slotAddr slot + i) = cmd[i]? := by
    intro i hi
    rw [Memory.read_writeSlot, if_pos (by omega), Nat.add_sub_cancel_left]
  have hw : (m.writeSlot slot cmd).slotWritten slot = true := by
    simp only [Memory.slotWritten, List.all_eq_true, List.mem_range]
    intro i hi
    rw [hr i hi]
    simp [hi]
  refine ⟨?_, hw⟩
  simp only [Memory.readSlot, hw, if_true, Option.some.injEq]
  apply Vector.ext
  intro i hi
  simp [hr i hi, hi]

end Sys2Proof.Machine
end

