-- ==== Sys2Proof/Laws/Queue.lean ====
section
/-! SUPPORT. The Command Queue: what an append and a pop can do, and that they keep the queue invariants (rules R27,
R121, R122). -/

namespace Sys2Proof.Machine

theorem State.slotAt_val (s : State) (k : Nat) : (s.slotAt k).val = (s.head.val + k) % 200 := rfl

/-- Slots less than a capacity apart differ. -/
theorem State.slotAt_ne {s : State} {j k : Nat} (h : j < k) (hk : k < 200) : s.slotAt j ≠ s.slotAt k := by
  intro e
  have := congrArg Fin.val e
  rw [State.slotAt_val, State.slotAt_val] at this
  omega

/-- A full queue refuses and changes nothing (rule R121). -/
theorem State.queueTryAppend_full {s : State} (h : s.count = 200) (cmd : Command) :
    s.queueTryAppend cmd = (s, false) := by
  simp [State.queueTryAppend, Params.queueCapacity, h]

/-- Any other queue accepts (rule R121). -/
theorem State.queueTryAppend_room {s : State} (h : s.count ≠ 200) (cmd : Command) :
    s.queueTryAppend cmd = (s.storeTail cmd, true) := by
  simp [State.queueTryAppend, Params.queueCapacity, h]

/-- An empty queue has nothing to pop and changes nothing (rule R122). -/
theorem State.queueTryPop_empty {s : State} (h : s.count = 0) : s.queueTryPop = (s, none) := if_pos h

/-- A queue that is not empty gives the Command in slot `head` (rule R122). -/
theorem State.queueTryPop_some {s : State} (h : s.count ≠ 0) {cmd : Command}
    (hc : s.qmem.readSlot s.head = some cmd) :
    s.queueTryPop = (s.dropHead, some cmd) := by
  simp [State.queueTryPop, State.memReadSlot, h, hc]

/-- Everything a read of a slot can do, in every state: the written bytes, and of the rest of the state only `draws` may have
moved (rules R10, R60, U2). -/
theorem State.memReadSlot_cases (slot : Fin 200) (s : State) : ∃ (cmd : Command) (d : Nat),
    s.memReadSlot slot = ({ s with draws := d }, cmd) ∧
      ∀ (i : Fin 13) (b : Byte), s.qmem.read (slotAddr slot + i.val) = some b → cmd.get i = b := by
  cases h : s.qmem.readSlot slot with
  | some cmd =>
    refine ⟨cmd, s.draws, by simp only [State.memReadSlot, h], fun i b hb => ?_⟩
    have h' := Memory.readSlot_get h i
    rw [hb] at h'
    exact (Option.some.inj h').symm
  | none =>
    refine ⟨s.drawnSlot slot, s.draws + 13, by simp only [State.memReadSlot, h], fun i b hb => ?_⟩
    have e : (s.drawnSlot slot).get i = (s.qmem.read (slotAddr slot + i.val)).getD (Config.freeByte (s.draws + i.val)) :=
      Vector.getElem_ofFn i.isLt
    rw [e, hb]
    rfl

/-- Everything a pop of a queue that is not empty can do, in every state (rules R120, R122). -/
theorem State.queueTryPop_cases {s : State} (h : s.count ≠ 0) : ∃ (cmd : Command) (d : Nat),
    s.queueTryPop = (State.dropHead { s with draws := d }, some cmd) ∧
      ∀ (i : Fin 13) (b : Byte), s.qmem.read (slotAddr s.head + i.val) = some b → cmd.get i = b := by
  obtain ⟨cmd, d, he, hb⟩ := State.memReadSlot_cases s.head s
  exact ⟨cmd, d, by simp only [State.queueTryPop, h, he, if_false], hb⟩

theorem State.slotAt_dropHead (s : State) (k : Nat) : s.dropHead.slotAt k = s.slotAt (k + 1) := by
  apply Fin.ext
  simp only [State.slotAt, State.dropHead, Fin.val_add]
  omega

/-- The queue invariants speak of QMEM, `count` and the two indices only. -/
theorem QueueInv.congr {s t : State} (h : QueueInv s) (hm : t.qmem = s.qmem) (hc : t.count = s.count)
    (hh : t.head = s.head) (ht : t.tail = s.tail) : QueueInv t := by
  obtain ⟨a, b, c, d⟩ := h
  have e : ∀ k, t.slotAt k = s.slotAt k := fun k => by
    apply Fin.ext
    rw [State.slotAt_val, State.slotAt_val, hh]
  exact ⟨by rwa [hm], by rwa [hc], by rwa [ht, hc, e], fun k hk => by rw [hm, e]; exact d k (by rwa [← hc])⟩

/-- Under the queue invariants an append keeps them and adds the Command at the end (rules R27, R126). -/
theorem QueueInv.storeTail {s : State} (h : QueueInv s) (hr : s.count ≠ 200) (cmd : Command) :
    QueueInv (s.storeTail cmd) ∧ (s.storeTail cmd).queued = s.queued ++ [some cmd] := by
  obtain ⟨hw, hc, ht, hs⟩ := h
  have other : ∀ k < s.count, s.slotAt k ≠ s.tail := fun k hk => by
    rw [ht]
    exact State.slotAt_ne hk (by omega)
  have same : ∀ k, (s.storeTail cmd).slotAt k = s.slotAt k := fun _ => rfl
  have hcount : (s.storeTail cmd).count = s.count + 1 := rfl
  have hqmem : (s.storeTail cmd).qmem = s.qmem.writeSlot s.tail cmd := rfl
  have own := Memory.readSlot_writeSlot_same s.qmem s.tail cmd
  refine ⟨⟨Memory.wf_writeSlot hw _ _, by omega, ?_, ?_⟩, ?_⟩
  · apply Fin.ext
    have e := congrArg Fin.val ht
    rw [State.slotAt_val] at e
    simp only [State.slotAt, State.storeTail, Fin.val_add, e]
    omega
  · intro k hk
    rw [same, hqmem]
    by_cases hlt : k < s.count
    · exact (Memory.readSlot_writeSlot_ne s.qmem (other k hlt) cmd).2.trans (hs k hlt)
    · obtain rfl : k = s.count := by omega
      rw [← ht]
      exact own.2
  · simp only [State.queued, hcount, hqmem, same, List.range_succ, List.map_append, List.map_cons, List.map_nil,
      ← ht, own.1]
    congr 1
    apply List.map_congr_left
    intro k hk
    exact (Memory.readSlot_writeSlot_ne s.qmem (other k (by simpa using hk)) cmd).1

/-- Under the queue invariants a pop of a queue that is not empty keeps them and takes the oldest Command away (rules
R27, R126). -/
theorem QueueInv.dropHead {s : State} (h : QueueInv s) (h0 : s.count ≠ 0) :
    ∃ cmd, s.qmem.readSlot s.head = some cmd ∧ QueueInv s.dropHead ∧
      s.queued = some cmd :: s.dropHead.queued := by
  obtain ⟨hw, hc, ht, hs⟩ := h
  have first : s.slotAt 0 = s.head := by
    apply Fin.ext
    have := s.head.isLt
    rw [State.slotAt_val]
    omega
  obtain ⟨cmd, hcmd⟩ := Memory.readSlot_isSome (hs 0 (by omega))
  rw [first] at hcmd
  have hcount : s.dropHead.count = s.count - 1 := rfl
  have hqmem : s.dropHead.qmem = s.qmem := rfl
  refine ⟨cmd, hcmd, ⟨hw, by omega, ?_, ?_⟩, ?_⟩
  · rw [State.slotAt_dropHead, hcount, Nat.sub_add_cancel (by omega)]
    exact ht
  · intro k hk
    rw [State.slotAt_dropHead, hqmem]
    exact hs (k + 1) (by omega)
  · simp only [State.queued, hcount, hqmem, State.slotAt_dropHead]
    obtain ⟨n, hn⟩ : ∃ n, s.count = n + 1 := ⟨s.count - 1, by omega⟩
    rw [hn, List.range_succ_eq_map, List.map_cons, first, hcmd, List.map_map]
    rfl

end Sys2Proof.Machine
end

