-- ==== Sys2Proof/Laws/TimedRead.lean ====
section
/-! SUPPORT. The timed read (rules R163, R164): what its loop does when the host feeds it, and everything it can do. -/

namespace Sys2Proof.Machine

/-- `RxTry()` when the turn it begins with leaves RX empty. -/
theorem State.rxTry_empty {s : State} (h : s.envTurn.rx = []) : s.rxTry = (s.envTurn, none) := by
  simp only [State.rxTry, h]

/-- `RxTry()` when the turn it begins with leaves a byte in RX. -/
theorem State.rxTry_cons {s : State} {b : Byte} {rest : List Byte} (h : s.envTurn.rx = b :: rest) :
    s.rxTry = ({ s.envTurn with rx := rest }, some b) := by
  simp only [State.rxTry, h]

/-- The state a timed read leaves after `m` calls of `RxTry()`. -/
def State.afterRead (m : Nat) (s : State) (rx : List Byte) (i t : Nat) : State :=
  { s.envTurns m with rx := rx, interbyte := i, transaction := t }

theorem State.afterRead_zero (s : State) : s.afterRead 0 s.rx s.interbyte s.transaction = s := rfl

theorem State.envSame_afterRead (m : Nat) (s : State) (rx : List Byte) (i t : Nat) :
    EnvSame (s.envTurns m) (s.afterRead m rx i t) := ⟨rfl, rfl, rfl, rfl, rfl, rfl, rfl⟩

/-- Reading on from a state that a read has left. -/
theorem State.afterRead_afterRead (s : State) (k m : Nat) (rx₀ rx : List Byte) (i₀ t₀ i t : Nat) :
    (s.afterRead k rx₀ i₀ t₀).afterRead m rx i t = s.afterRead (k + m) rx i t := by
  rw [State.afterRead, (State.envSame_afterRead k s rx₀ i₀ t₀).envTurns_eq m, State.afterRead, State.afterRead,
    State.envTurns_add, State.envTurns_eq m (s.envTurns k)]

theorem State.afterRead_envTurns_rx (s : State) (k m : Nat) (rx₀ : List Byte) (i₀ t₀ : Nat) :
    ((s.afterRead k rx₀ i₀ t₀).envTurns m).rx = rx₀ ++ (s.envTurns k).hostIn m := by
  rw [(State.envSame_afterRead k s rx₀ i₀ t₀).envTurns_eq m]
  rfl

/-- What RX holds after `j + 1` turns, its first byte having been taken after the first. -/
theorem State.envTurns_rx_cons (s : State) (j : Nat) (b : Byte) (rest : List Byte) (i t : Nat)
    (h : s.envTurn.rx = b :: rest) :
    (s.envTurns (j + 1)).rx = b :: ((s.afterRead 1 rest i t).envTurns j).rx := by
  rw [State.afterRead_envTurns_rx, State.envTurns_succ, State.envTurns_rx, h]
  rfl

/-- A round of the loop that gets a byte. -/
theorem timedReadLoop_byte (I T fuel n : Nat) (s : State) (got : List Byte) {b : Byte} {rest : List Byte}
    (hlt : got.length < n) (h : s.envTurn.rx = b :: rest) :
    timedReadLoop I T (fuel + 1) n s got =
      timedReadLoop I T fuel n (s.afterRead 1 rest 0 s.transaction) (got ++ [b]) := by
  rw [timedReadLoop, if_pos hlt, State.rxTry_cons h]
  rfl

/-- A round of the loop that finds RX empty. -/
theorem timedReadLoop_empty (I T fuel n : Nat) (s : State) (got : List Byte)
    (hlt : got.length < n) (h : s.envTurn.rx = []) :
    timedReadLoop I T (fuel + 1) n s got =
      if s.interbyte + 1 > I ∨ s.transaction + 1 > T then
        (s.afterRead 1 [] (s.interbyte + 1) (s.transaction + 1), got)
      else timedReadLoop I T fuel n (s.afterRead 1 [] (s.interbyte + 1) (s.transaction + 1)) got := by
  have e : s.envTurn.countEmptyPoll = s.afterRead 1 [] (s.interbyte + 1) (s.transaction + 1) := by
    rw [← h]
    rfl
  rw [timedReadLoop, if_pos hlt, State.rxTry_empty h, ← e]
  rfl

/-- A fed read takes its bytes from the front of RX, one `RxTry()` each, and never times out (rule R164 (a)). -/
theorem timedReadLoop_feeds (I T : Nat) (k : Nat) : ∀ (fuel n : Nat) (s : State) (got : List Byte),
    got.length + k = n → k ≤ fuel → s.feeds k →
    timedReadLoop I T fuel n s got =
      (s.afterRead k ((s.envTurns k).rx.drop k) (if k = 0 then s.interbyte else 0) s.transaction,
        got ++ (s.envTurns k).rx.take k) := by
  induction k with
  | zero =>
    intro fuel n s got hn _ _
    have : ¬ got.length < n := by omega
    cases fuel <;> simp [timedReadLoop, this, State.afterRead]
  | succ k ih =>
    intro fuel n s got hn hf hs
    obtain ⟨fuel, rfl⟩ : ∃ f, fuel = f + 1 := ⟨fuel - 1, by omega⟩
    have h0 := hs 0 (by omega)
    obtain ⟨b, rest, hb⟩ : ∃ b rest, s.envTurn.rx = b :: rest := by
      cases h : s.envTurn.rx with
      | nil => simp [State.envTurns_one, h] at h0
      | cons b rest => exact ⟨b, rest, rfl⟩
    have hcons := fun j => State.envTurns_rx_cons s j b rest 0 s.transaction hb
    rw [timedReadLoop_byte I T fuel n s got (by omega) hb, ih fuel n _ (got ++ [b]) (by simp; omega) (by omega)
      (by
        intro j hj
        have := hs (j + 1) (by omega)
        rw [hcons (j + 1)] at this
        simpa using this), State.afterRead_afterRead, hcons k, Nat.add_comm 1 k]
    simp [State.afterRead]

/-- Everything a timed read can do (rules R163, R164): after `m` calls of `RxTry()` it is complete, or it has timed out
with RX empty; the bytes it answers are those taken from RX, in order, and it changes nothing else. -/
theorem timedReadLoop_cases (I T : Nat) : ∀ (fuel n : Nat) (s : State) (got : List Byte),
    got.length ≤ n → (n - got.length) + (T + 1 - s.transaction) ≤ fuel →
    ∃ (m : Nat) (r rx : List Byte) (i t : Nat), m ≤ fuel ∧
      timedReadLoop I T fuel n s got = (s.afterRead m rx i t, got ++ r) ∧
      r ++ rx = (s.envTurns m).rx ∧
      ((got ++ r).length = n ∨ ((got ++ r).length < n ∧ rx = [] ∧ (I < i ∨ T < t))) := by
  intro fuel
  induction fuel with
  | zero =>
    intro n s got hle hf
    exact ⟨0, [], s.rx, s.interbyte, s.transaction, le_refl _, by simp [timedReadLoop, State.afterRead_zero],
      by simp, .inl (by simp; omega)⟩
  | succ fuel ih =>
    intro n s got hle hf
    by_cases hlt : got.length < n
    · cases h : s.envTurn.rx with
      | nil =>
        rw [timedReadLoop_empty I T fuel n s got hlt h]
        by_cases hto : s.interbyte + 1 > I ∨ s.transaction + 1 > T
        · exact ⟨1, [], [], s.interbyte + 1, s.transaction + 1, by omega, by rw [if_pos hto, List.append_nil],
            by simp [State.envTurns_one, h], .inr ⟨by simpa using hlt, rfl, hto⟩⟩
        · obtain ⟨m, r, rx, i, t, hm, heq, happ, hor⟩ :=
            ih n (s.afterRead 1 [] (s.interbyte + 1) (s.transaction + 1)) got hle
              (by simp only [State.afterRead]; omega)
          refine ⟨m + 1, r, rx, i, t, by omega, ?_, ?_, hor⟩
          · rw [if_neg hto, heq, State.afterRead_afterRead, Nat.add_comm 1 m]
          · rw [happ, State.afterRead_envTurns_rx, State.envTurns_rx, State.hostIn_succ, ← List.append_assoc,
              ← State.envTurn_rx, h]
            rfl
      | cons b rest =>
        obtain ⟨m, r, rx, i, t, hm, heq, happ, hor⟩ := ih n (s.afterRead 1 rest 0 s.transaction) (got ++ [b])
          (by simp; omega)
          (by simp only [State.afterRead, List.length_append, List.length_singleton]
              omega)
        refine ⟨m + 1, b :: r, rx, i, t, by omega, ?_, ?_, by simpa using hor⟩
        · rw [timedReadLoop_byte I T fuel n s got hlt h, heq, State.afterRead_afterRead, Nat.add_comm 1 m]
          simp
        · rw [State.envTurns_rx_cons s m b rest 0 s.transaction h, List.cons_append, happ]
    · refine ⟨0, [], s.rx, s.interbyte, s.transaction, by omega, ?_, by simp, .inl (by simp; omega)⟩
      rw [timedReadLoop, if_neg hlt, State.afterRead_zero, List.append_nil]

theorem State.startCounters_eq (s : State) : s.startCounters = s.afterRead 0 s.rx 0 0 := rfl

theorem State.startCounters_envTurns_rx (s : State) (k : Nat) : (s.startCounters.envTurns k).rx = (s.envTurns k).rx := by
  rw [State.startCounters_eq, State.afterRead_envTurns_rx, State.envTurns_rx]
  rfl

/-- A fed timed read, under any limits (rule R164 (a)). -/
theorem timedReadWith_feeds (I T n : Nat) (s : State) (h : s.feeds n) :
    timedReadWith I T n s = (s.afterRead n ((s.envTurns n).rx.drop n) 0 0, (s.envTurns n).rx.take n) := by
  have hf : s.startCounters.feeds n := fun j hj => by
    rw [State.startCounters_envTurns_rx]
    exact h j hj
  rw [timedReadWith, timedReadLoop_feeds I T n (T + n + 1) n s.startCounters [] (by simp) (by omega) hf,
    State.startCounters_envTurns_rx, State.startCounters_eq, State.afterRead_afterRead, Nat.zero_add]
  simp [State.afterRead]

/-- Whether the host feeds a read depends on RX and `env` only. -/
theorem State.feeds_congr {s t : State} (hrx : t.rx = s.rx) (he : t.env = s.env) {k : Nat} (h : s.feeds k) :
    t.feeds k := by
  intro j hj
  have := h j hj
  rw [State.envTurns_rx] at this ⊢
  rwa [hrx, State.hostIn_congr he]

/-- A fed read of `j + k` bytes is a fed read of `j` bytes and then one of `k`. -/
theorem State.feeds_add {s : State} {j k : Nat} (h : s.feeds (j + k)) :
    s.feeds j ∧ (s.afterRead j ((s.envTurns j).rx.drop j) 0 0).feeds k := by
  refine ⟨fun i hi => h i (by omega), fun i hi => ?_⟩
  have := h (j + i) (by omega)
  rw [Nat.add_assoc, State.envTurns_add, State.envTurns_rx, List.length_append] at this
  rw [State.afterRead_envTurns_rx, List.length_append, List.length_drop]
  omega

/-- The state with another accumulator and scratch buffer. -/
def State.withScratch (c : Half) (b : Vector Byte 16) (s : State) : State := { s with crc := c, buf := b }

/-- A timed read neither sees nor writes the accumulator and the scratch buffer (rules R26, R163). -/
theorem timedReadLoop_withScratch (I T : Nat) (c : Half) (b : Vector Byte 16) : ∀ (fuel n : Nat) (s : State)
    (got : List Byte), timedReadLoop I T fuel n (s.withScratch c b) got =
      ((timedReadLoop I T fuel n s got).1.withScratch c b, (timedReadLoop I T fuel n s got).2) := by
  intro fuel
  induction fuel with
  | zero => intro n s got; rfl
  | succ fuel ih =>
    intro n s got
    by_cases hlt : got.length < n
    · cases h : s.envTurn.rx with
      | nil =>
        rw [timedReadLoop_empty I T fuel n s got hlt h, timedReadLoop_empty I T fuel n (s.withScratch c b) got hlt h]
        by_cases hto : s.interbyte + 1 > I ∨ s.transaction + 1 > T
        · rw [if_pos hto]
          exact if_pos hto
        · rw [if_neg hto]
          refine Eq.trans (if_neg hto) ?_
          exact ih n (s.afterRead 1 [] (s.interbyte + 1) (s.transaction + 1)) got
      | cons x rest =>
        rw [timedReadLoop_byte I T fuel n s got hlt h, timedReadLoop_byte I T fuel n (s.withScratch c b) got hlt h]
        exact ih n (s.afterRead 1 rest 0 s.transaction) (got ++ [x])
    · rw [timedReadLoop, if_neg hlt, timedReadLoop, if_neg hlt]

theorem timedRead_withScratch (c : Half) (b : Vector Byte 16) (n : Nat) (s : State) :
    timedRead n (s.withScratch c b) = ((timedRead n s).1.withScratch c b, (timedRead n s).2) :=
  timedReadLoop_withScratch _ _ c b _ n s.startCounters []

end Sys2Proof.Machine
end

