-- ==== Sys2Proof/Laws/Dispatcher.lean ====
section
/-! SUPPORT. The Command Dispatcher's shared operations: the filter (rule R161), the scratch buffer (rule R26), the verify
(rule R144) and the end of STEPS (rule R171), each said once. -/

namespace Sys2Proof.Machine

/-- An opcode that passes the filter is stored and handled (rule R161). -/
theorem accept_of_passes {s : State} {o : Byte} (h : filtered s.reportOnly o = false)
    (k : State → Host.Outcome State Fault Refusal) : accept o s k = k (s.storeOpcode o) := by
  rw [accept, h]
  rfl

/-- A filtered opcode is discarded (rules R161, R280). -/
theorem accept_of_filtered {s : State} {o : Byte} (h : filtered s.reportOnly o = true)
    (k : State → Host.Outcome State Fault Refusal) : accept o s k = .next s.returnFromPoll := by
  rw [accept, h]
  rfl

/-- Outside REPORT_ONLY the five commands pass (rule R161). -/
theorem filtered_of_normal {r : Bool} {o : Byte} (hr : r = false) (ho : o.toNat ≤ 4) : filtered r o = false := by
  simp [filtered, hr, Nat.not_lt.mpr ho]

/-- In REPORT_ONLY every opcode but 0x03 is discarded (rule R161). -/
theorem filtered_of_reportOnly {r : Bool} {o : Byte} (hr : r = true) (ho : o ≠ 0x03) : filtered r o = true := by
  rw [filtered, hr, Bool.true_and, bne_iff_ne.mpr ho, Bool.true_or]

/-- GET_ACCELS passes in every mode (rule R161). -/
theorem filtered_getAccels (r : Bool) : filtered r 0x03 = false := by cases r <;> decide

theorem patchBytes_append (xs ys : List Byte) (l : List Byte) (h : xs.length = l.length) :
    patchBytes (xs ++ ys) 0 l = l ++ ys := by
  induction xs generalizing l with
  | nil =>
    obtain rfl : l = [] := List.eq_nil_of_length_eq_zero h.symm
    cases ys <;> rfl
  | cons x xs ih =>
    obtain ⟨b, l, rfl⟩ := List.exists_cons_of_length_pos (l := l) (by rw [← h]; simp)
    simp only [List.cons_append, patchBytes]
    rw [ih l (by simpa using h)]

theorem patchBytes_skip (zs xs : List Byte) (k : Nat) (l : List Byte) (h : zs.length = k) :
    patchBytes (zs ++ xs) k l = zs ++ patchBytes xs 0 l := by
  subst h
  induction zs with
  | nil => rfl
  | cons z zs ih => simp [patchBytes, ih]

/-- Overwriting one byte is `Vector.set`. -/
theorem putBytes_one {m : Nat} (v : Vector Byte (m + 1)) (b : Byte) : putBytes v 0 [b] = v.set 0 b := by
  rcases v with ⟨⟨l⟩, hl⟩
  rcases l with _ | ⟨x, l⟩
  · simp at hl
  · apply Vector.toArray_inj.mp
    rcases l with _ | ⟨y, l⟩ <;> simp [putBytes, patchBytes]

/-- `buf[0] <- opcode` (rule R161). -/
theorem State.storeOpcode_eq (s : State) (opcode : Byte) :
    s.storeOpcode opcode = { s with buf := s.buf.set 0 opcode } := by
  rw [State.storeOpcode, putBytes_one]

theorem putBytes_toList {m : Nat} (v : Vector Byte m) (k : Nat) (l : List Byte) :
    (putBytes v k l).toList = patchBytes v.toList k l := by
  simp [putBytes, Vector.toList]

/-- The scratch buffer of a STEPS request whose operands have all arrived (rules R26, R171). -/
theorem stepsBuf_eq (v : Vector Byte 16) (p : Command) (hi lo : Byte) :
    putBytes (putBytes (putBytes v 0 [0x01]) 1 p.toList) 14 [hi, lo] = (#v[(0x01 : Byte)] ++ p) ++ #v[hi, lo] := by
  have hv : v.toList.length = 16 := by simp
  have hp : p.toList.length = 13 := by simp
  have split : ∃ a ys zs, v.toList = a :: (ys ++ zs) ∧ ys.length = 13 ∧ zs.length = 2 := by
    obtain ⟨a, t, ht⟩ := List.exists_cons_of_length_pos (l := v.toList) (by omega)
    rw [ht, List.length_cons] at hv
    exact ⟨a, t.take 13, t.drop 13, by rw [List.take_append_drop, ht], by simp; omega, by simp; omega⟩
  obtain ⟨a, ys, zs, hs, hy, hz⟩ := split
  apply Vector.toList_inj.mp
  rw [putBytes_toList, putBytes_toList, putBytes_toList, hs]
  have e1 : patchBytes (a :: (ys ++ zs)) 0 [0x01] = [0x01] ++ (ys ++ zs) := patchBytes_append [a] _ _ rfl
  have e2 : patchBytes ([0x01] ++ (ys ++ zs)) 1 p.toList = ([0x01] ++ p.toList) ++ zs := by
    rw [patchBytes_skip [0x01] (ys ++ zs) 1 _ rfl, patchBytes_append ys zs _ (by omega), List.append_assoc]
  have e3 : patchBytes (([0x01] ++ p.toList) ++ zs) 14 [hi, lo] = ([0x01] ++ p.toList) ++ [hi, lo] := by
    rw [patchBytes_skip _ _ 14 _ (by simp)]
    have := patchBytes_append zs [] [hi, lo] (by simpa using hz)
    rw [List.append_nil, List.append_nil] at this
    rw [this]
  rw [e1, e2, e3]
  rw [Vector.toList_append, Vector.toList_append]
  rfl

/-- The bytes the checksum covers once the payload is stored (rule R93). -/
theorem stepsCovered_eq (span : CrcSpan) (s : State) (p : Command) :
    ((s.storeOpcode 0x01).storePayload p.toList).stepsCovered span =
      match span with
      | .opcodeAndPayload => 0x01 :: p.toList
      | .payloadOnly => p.toList := by
  have hb : ∃ x y, (putBytes (putBytes s.buf 0 [0x01]) 1 p.toList).toList = 0x01 :: (p.toList ++ [x, y]) := by
    have hv : s.buf.toList.length = 16 := by simp
    obtain ⟨a, t, ht⟩ := List.exists_cons_of_length_pos (l := s.buf.toList) (by omega)
    rw [ht, List.length_cons] at hv
    have hz : (t.drop 13).length = 2 := by simp; omega
    obtain ⟨x, y, hxy⟩ := List.length_eq_two.mp hz
    refine ⟨x, y, ?_⟩
    rw [putBytes_toList, putBytes_toList, ht]
    have e1 : patchBytes (a :: t) 0 [0x01] = [0x01] ++ t := patchBytes_append [a] _ _ rfl
    rw [e1]
    rw [patchBytes_skip [0x01] t 1 _ rfl]
    conv_lhs => rw [← List.take_append_drop 13 t]
    rw [patchBytes_append _ _ _ (by simp; omega), hxy]
    simp
  obtain ⟨x, y, h⟩ := hb
  have hp : p.toList.length = 13 := by simp
  cases span <;>
    simp only [State.stepsCovered, State.storePayload, State.storeOpcode, h, sliceBytes] <;>
    simp [hp]

/-- `CrcVerify`, its two timed-read bytes received (rules R141, R144). -/
theorem State.crcVerify_received {s t : State} {bytes : List Byte} {hi lo : Byte} (h : timedRead 2 s = (t, [hi, lo])) :
    s.crcVerify bytes =
      ({ t with buf := putBytes t.buf 14 [hi, lo], crc := crc16 bytes },
        if crc16 bytes = joinBytes hi lo then .ok else .mismatch) := by
  rw [State.crcVerify, h]
  rfl

end Sys2Proof.Machine
end

