-- ==== Sys2Proof/Laws/Exchange.lean ====
section
/-! SUPPORT. The FPGA Exchange Loop (rules R201 to R204): everything a frame build, a look for the sentinel and a look at the
hold can do. -/

namespace Sys2Proof.Machine

/-- While the gate holds or the queue is empty the frame is the filler and nothing is popped (rule R203). -/
theorem buildFrameWith_filler {gate : Bool} {s : State} (h : (gate = true ∧ s.defer = true) ∨ s.count = 0) :
    buildFrameWith gate s = (s, frameOf Config.filler) := by
  unfold buildFrameWith
  refine if_pos ?_
  rcases h with ⟨h1, h2⟩ | h <;> simp [State.heldBack, State.queueIsEmpty, *]

/-- Else it carries the oldest Command (rule R203). -/
theorem buildFrameWith_pop {gate : Bool} {s : State} (hg : gate = false ∨ s.defer = false) (hc : s.count ≠ 0)
    {cmd : Command} (hs : s.qmem.readSlot s.head = some cmd) :
    buildFrameWith gate s = (s.dropHead, frameOf cmd) := by
  unfold buildFrameWith
  rw [if_neg]
  · rw [State.queueTryPop_some hc hs]
  · rcases hg with h | h <;> simp [State.heldBack, State.queueIsEmpty, hc, h]

/-- Else, in every state, it carries a Command, which leaves the queue (rules R120, R203). -/
theorem buildFrameWith_takes {gate : Bool} {s : State} (hg : gate = false ∨ s.defer = false) (hc : s.count ≠ 0) :
    ∃ (cmd : Command) (d : Nat), buildFrameWith gate s = (State.dropHead { s with draws := d }, frameOf cmd) := by
  obtain ⟨cmd, d, h, -⟩ := State.queueTryPop_cases hc
  refine ⟨cmd, d, ?_⟩
  unfold buildFrameWith
  rw [if_neg]
  · rw [h]
  · rcases hg with h | h <;> simp [State.heldBack, State.queueIsEmpty, hc, h]

/-- Under the queue invariants a frame build is: a frame of the filler with the queue untouched, or a frame of
the oldest Command, popped (rule R203). -/
theorem buildFrameWith_cases (gate : Bool) {s : State} (h : QueueInv s) :
    buildFrameWith gate s = (s, frameOf Config.filler) ∨
      ∃ cmd, s.count ≠ 0 ∧ s.queued = some cmd :: s.dropHead.queued ∧ QueueInv s.dropHead ∧
        buildFrameWith gate s = (s.dropHead, frameOf cmd) := by
  by_cases hf : (gate = true ∧ s.defer = true) ∨ s.count = 0
  · exact .inl (buildFrameWith_filler hf)
  · have hc : s.count ≠ 0 := fun e => hf (.inr e)
    obtain ⟨cmd, hs, hi, hq⟩ := h.dropHead hc
    refine .inr ⟨cmd, hc, hq, hi, buildFrameWith_pop ?_ hc hs⟩
    cases gate
    · exact .inl rfl
    · exact .inr (by simpa using fun e : s.defer = true => hf (.inl ⟨rfl, e⟩))

/-- Any byte but the sentinel (rule R201). -/
theorem waitSentinelWith_other {gate : Bool} {s : State} (h : s.envTurn.busData ≠ 0x5A) :
    waitSentinelWith gate s = .next s.envTurn := by
  unfold waitSentinelWith
  exact if_neg h

/-- The sentinel (rules R201, R202): it is cleared and a frame is built. -/
theorem waitSentinelWith_sentinel {gate : Bool} {s : State} (h : s.envTurn.busData = 0x5A) {t : State} {f : Frame}
    (hb : buildFrameWith gate { s.envTurns 2 with busData := 0x00 } = (t, f)) :
    waitSentinelWith gate s = .next { t with frameBuf := f, phase := .nSend 0 } := by
  have hb' : buildFrameWith gate (s.envTurn.busPoke Params.sentinelClear) = (t, f) := hb
  unfold waitSentinelWith
  refine (if_pos h).trans ?_
  change Host.Outcome.next { (buildFrameWith gate (s.envTurn.busPoke Params.sentinelClear)).1 with
    frameBuf := (buildFrameWith gate (s.envTurn.busPoke Params.sentinelClear)).2
    phase := .nSend 0 } = _
  rw [hb']

/-- A look at a hold that the FPGA has ended (rule R204). -/
theorem holdTransfer_done {i : Fin 19} {s : State} (h : s.envTurn.xferDone = true) :
    holdTransfer i s = .next { s.envTurn with xfer := none, phase := afterSend i } := by
  unfold holdTransfer
  exact if_pos h

/-- A look at a hold that goes on (rules R204, R323). -/
theorem holdTransfer_waits {i : Fin 19} {s : State} (h : s.envTurn.xferDone = false) :
    holdTransfer i s = .next s.envTurn := by
  unfold holdTransfer
  exact if_neg (by rw [h]; decide)

/-- `N_SEND(i)` in `SLAVE` role begins its transfer once. -/
theorem sendByte_begin {i : Fin 19} {s : State} (hr : s.busRole = .slave) (hx : s.xfer = none) :
    sendByte i s = holdTransfer i (s.beginTransfer (s.frameBuf.get i)) := by
  unfold sendByte
  rw [hr]
  simp only [hx]

theorem sendByte_hold {i : Fin 19} {s : State} {b : Byte} (hr : s.busRole = .slave) (hx : s.xfer = some b) :
    sendByte i s = holdTransfer i s := by
  unfold sendByte
  rw [hr]
  simp only [hx]

theorem afterSend_eq (i : Fin 19) : afterSend i = if i.val = 18 then .nPoll else .nSend (i + 1) := by
  revert i
  decide

/-- The frame as a list (rule R100). -/
theorem frameOf_toList (body : Command) :
    (frameOf body).toList = Config.frameHead :: (body.toList ++ Config.frameTrail.toList) := by
  rw [frameOf, Vector.toList_append, Vector.toList_append]
  rfl

end Sys2Proof.Machine
end

