-- ==== Sys2Proof/Laws/Steps.lean ====
section
/-! SUPPORT. STEPS (rule R171): everything it can do, and what it does when its 15 operand bytes are there. -/

namespace Sys2Proof.Machine

/-- The state STEPS has left after `m` calls of `RxTry()`: RX, the counters, the accumulator and the scratch buffer are its
to write. -/
def State.seen (m : Nat) (rx : List Byte) (i t : Nat) (c : Half) (b : Vector Byte 16) (s : State) : State :=
  { s.envTurns m with rx := rx, interbyte := i, transaction := t, crc := c, buf := b }

theorem State.seen_eq (m : Nat) (rx : List Byte) (i t : Nat) (c : Half) (b : Vector Byte 16) (s : State) :
    s.seen m rx i t c b = (s.afterRead m rx i t).withScratch c b := rfl

/-- Everything else is as before or as the environment leaves it. -/
theorem State.seen_update (m : Nat) (rx : List Byte) (i t : Nat) (c : Half) (b : Vector Byte 16) (s : State) :
    s.seen m rx i t c b = { s with
      env := (s.envTurns m).env, rx := rx, pinFpgaReady := (s.envTurns m).pinFpgaReady
      busData := (s.envTurns m).busData, xferDone := (s.envTurns m).xferDone, fpgaOut := (s.envTurns m).fpgaOut
      interbyte := i, transaction := t, crc := c, buf := b } := by
  unfold State.seen
  rw [State.envTurns_eq m s]

/-- A further turn of the environment. -/
theorem State.seen_envTurn (m : Nat) (rx : List Byte) (i t : Nat) (c : Half) (b : Vector Byte 16) (s : State) :
    (s.seen m rx i t c b).envTurn = s.seen (m + 1) (rx ++ hostBytes (s.envTurns m).nextMoves) i t c b := by
  have h : EnvSame (s.envTurns m) (s.seen m rx i t c b) := ⟨rfl, rfl, rfl, rfl, rfl, rfl, rfl⟩
  rw [h.envTurn_eq, State.envTurn_envTurns, State.seen_update, State.seen_update]

/-- The scratch buffer it started with does not show. -/
theorem State.seen_storeOpcode (m : Nat) (rx : List Byte) (i t : Nat) (c : Half) (b : Vector Byte 16) (o : Byte)
    (s : State) : (s.storeOpcode o).seen m rx i t c b = s.seen m rx i t c b := by
  have h : EnvSame s (s.storeOpcode o) := ⟨rfl, rfl, rfl, rfl, rfl, rfl, rfl⟩
  rw [State.seen_update, h.envTurns_eq m, State.seen_update]
  rfl

/-- A timed read, from any state (rule R163). -/
theorem timedRead_reaches (n : Nat) (s : State) : ∃ (m : Nat) (rx : List Byte) (i t : Nat),
    (timedRead n s).1 = s.afterRead m rx i t := by
  obtain ⟨m, r, rx, i, t, -, h, -, -⟩ := timedReadLoop_cases Config.interbyteLimit Config.transactionLimit
    (Config.transactionLimit + n + 1) n s.startCounters [] (by simp) (by simp [State.startCounters]; omega)
  refine ⟨m, rx, i, t, ?_⟩
  rw [timedRead, timedReadWith, h, State.startCounters_eq, State.afterRead_afterRead, Nat.zero_add]

/-- A timed read goes on from what STEPS has left. -/
theorem timedRead_seen (n m : Nat) (rx : List Byte) (i t : Nat) (c : Half) (b : Vector Byte 16) (s : State) :
    ∃ (m' : Nat) (rx' : List Byte) (i' t' : Nat), (timedRead n (s.seen m rx i t c b)).1 = s.seen m' rx' i' t' c b := by
  obtain ⟨k, rx', i', t', h⟩ := timedRead_reaches n (s.afterRead m rx i t)
  refine ⟨m + k, rx', i', t', ?_⟩
  rw [State.seen_eq, timedRead_withScratch, h, State.afterRead_afterRead, ← State.seen_eq]

/-- Everything STEPS can do up to the queue (rules R171, R278): it raises an error, or it goes on to the append; before that
it has written RX, the counters, the accumulator and the scratch buffer only. -/
theorem stepsWith_cases (span : CrcSpan) (s : State) :
    ∃ (m : Nat) (rx : List Byte) (i t : Nat) (c : Half) (b : Vector Byte 16),
      stepsWith span s = .next (s.seen m rx i t c b).returnFromPoll ∨
        stepsWith span s = stepsAppend (s.seen m rx i t c b) := by
  have e0 : s = s.seen 0 s.rx s.interbyte s.transaction s.crc s.buf := rfl
  obtain ⟨m, rx, i, t, h1⟩ := timedRead_seen 13 0 s.rx s.interbyte s.transaction s.crc s.buf s
  rw [← e0] at h1
  cases ha : timedRead 13 s with
  | mk u r =>
    rw [ha] at h1
    subst h1
    by_cases hr : r.length < 13
    · refine ⟨m, rx, i, t, s.crc, s.buf, .inl ?_⟩
      rw [stepsWith, ha]
      simp only [hr, if_true]
      rfl
    · have e1 : (s.seen m rx i t s.crc s.buf).storePayload r = s.seen m rx i t s.crc (putBytes s.buf 1 r) := rfl
      obtain ⟨m', rx', i', t', h2⟩ := timedRead_seen 2 m rx i t s.crc (putBytes s.buf 1 r) s
      rw [stepsWith, ha]
      simp only [hr, if_false, e1, stepsVerify]
      generalize (s.seen m rx i t s.crc (putBytes s.buf 1 r)).stepsCovered span = cov
      cases hd : timedRead 2 (s.seen m rx i t s.crc (putBytes s.buf 1 r)) with
      | mk w q =>
        rw [hd] at h2
        subst h2
        by_cases hq : ∃ hi lo, q = [hi, lo]
        · obtain ⟨hi, lo, rfl⟩ := hq
          refine ⟨m', rx', i', t', crc16 cov, putBytes (putBytes s.buf 1 r) 14 [hi, lo], ?_⟩
          rw [State.crcVerify_received hd]
          by_cases hc : crc16 cov = joinBytes hi lo
          · exact .inr (by rw [if_pos hc]; rfl)
          · exact .inl (by rw [if_neg hc]; rfl)
        · refine ⟨m', rx', i', t', s.crc, putBytes s.buf 1 r, .inl ?_⟩
          have : (s.seen m rx i t s.crc (putBytes s.buf 1 r)).crcVerify cov =
              (s.seen m' rx' i' t' s.crc (putBytes s.buf 1 r), .short) := by
            rw [State.crcVerify, hd]
            split
            · rename_i h
              cases h
              exact absurd ⟨_, _, rfl⟩ hq
            · rename_i h
              cases h
              rfl
          rw [this]
          rfl

/-- The bytes the checksum of a STEPS request covers (rule R93). -/
def coveredBytes (span : CrcSpan) (p : Command) : List Byte :=
  match span with
  | .opcodeAndPayload => 0x01 :: p.toList
  | .payloadOnly => p.toList

theorem requestChecksum_eq (span : CrcSpan) (p : Command) : requestChecksum span p = crc16 (coveredBytes span p) := by
  cases span <;> rfl

/-- STEPS with both its timed reads complete (rule R171): the checksum decides between IntegrityFailure and the append. -/
theorem stepsWith_received (span : CrcSpan) (s : State) (p : Command) (hi lo : Byte) (m m' : Nat) (rx rx' : List Byte)
    (r1 : timedRead 13 (s.storeOpcode 0x01) = (s.seen m rx 0 0 s.crc (putBytes s.buf 0 [0x01]), p.toList))
    (r2 : ∀ (c : Half) (b : Vector Byte 16), timedRead 2 (s.seen m rx 0 0 c b) = (s.seen m' rx' 0 0 c b, [hi, lo])) :
    stepsWith span (s.storeOpcode 0x01) =
      if crc16 (coveredBytes span p) = joinBytes hi lo then
        stepsAppend (s.seen m' rx' 0 0 (crc16 (coveredBytes span p)) ((#v[(0x01 : Byte)] ++ p) ++ #v[hi, lo]))
      else .next (s.seen m' rx' 0 0 (crc16 (coveredBytes span p))
          ((#v[(0x01 : Byte)] ++ p) ++ #v[hi, lo])).returnFromPoll := by
  have hp : ¬ p.toList.length < 13 := by simp
  have e1 : (s.seen m rx 0 0 s.crc (putBytes s.buf 0 [0x01])).storePayload p.toList =
      s.seen m rx 0 0 s.crc (putBytes (putBytes s.buf 0 [0x01]) 1 p.toList) := rfl
  have ecov : (s.seen m rx 0 0 s.crc (putBytes (putBytes s.buf 0 [0x01]) 1 p.toList)).stepsCovered span =
      coveredBytes span p := stepsCovered_eq span s p
  have e2 : putBytes (s.seen m' rx' 0 0 s.crc (putBytes (putBytes s.buf 0 [0x01]) 1 p.toList)).buf 14 [hi, lo] =
      (#v[(0x01 : Byte)] ++ p) ++ #v[hi, lo] := stepsBuf_eq s.buf p hi lo
  rw [stepsWith, r1]
  simp only [hp, if_false]
  rw [e1, stepsVerify, ecov, State.crcVerify_received (r2 _ _), e2]
  by_cases hc : crc16 (coveredBytes span p) = joinBytes hi lo
  · rw [if_pos hc, if_pos hc]
    rfl
  · rw [if_neg hc, if_neg hc]
    rfl

/-- STEPS with its 15 operand bytes there as it looks for them (rules R164, R171). -/
theorem stepsWith_fed (span : CrcSpan) (s : State) (p : Command) (hi lo : Byte) (hf : s.feeds 15)
    (hrx : (s.envTurns 15).rx.take 15 = p.toList ++ [hi, lo]) :
    stepsWith span (s.storeOpcode 0x01) =
      if crc16 (coveredBytes span p) = joinBytes hi lo then
        stepsAppend (s.seen 15 ((s.envTurns 15).rx.drop 15) 0 0 (crc16 (coveredBytes span p))
          ((#v[(0x01 : Byte)] ++ p) ++ #v[hi, lo]))
      else .next (s.seen 15 ((s.envTurns 15).rx.drop 15) 0 0 (crc16 (coveredBytes span p))
          ((#v[(0x01 : Byte)] ++ p) ++ #v[hi, lo])).returnFromPoll := by
  obtain ⟨hf13, hf2⟩ := State.feeds_add (j := 13) (k := 2) hf
  have h13 : 13 ≤ (s.envTurns 13).rx.length := hf13 12 (by omega)
  have h15 : (s.envTurns 15).rx = (s.envTurns 13).rx ++ (s.envTurns 13).hostIn 2 := by
    rw [State.envTurns_add 13 2, State.envTurns_rx]
  have e13 : (s.envTurns 13).rx.take 13 = p.toList := by
    have h2 := congrArg (List.take 13) hrx
    rw [List.take_take, h15, List.take_append_of_le_length (by omega)] at h2
    simpa using h2
  have e15 : (((s.envTurns 13).rx.drop 13) ++ (s.envTurns 13).hostIn 2).take 2 = [hi, lo] := by
    have h2 := congrArg (List.drop 13) hrx
    rw [h15, List.drop_take, List.drop_append_of_le_length h13] at h2
    simpa using h2
  have e15' : (((s.envTurns 13).rx.drop 13) ++ (s.envTurns 13).hostIn 2).drop 2 = (s.envTurns 15).rx.drop 15 := by
    rw [h15, show (15 : Nat) = 13 + 2 from rfl, ← List.drop_drop, List.drop_append_of_le_length h13]
  apply stepsWith_received span s p hi lo 13 15 ((s.envTurns 13).rx.drop 13)
  · have e : s.storeOpcode 0x01 = s.withScratch s.crc (putBytes s.buf 0 [0x01]) := rfl
    rw [e, timedRead_withScratch, timedRead, timedReadWith_feeds _ _ _ _ hf13, e13, State.seen_eq]
  · intro c b
    rw [State.seen_eq, timedRead_withScratch, timedRead, timedReadWith_feeds _ _ _ _ hf2,
      State.afterRead_envTurns_rx, e15, e15', State.afterRead_afterRead, State.seen_eq]

/-- The Command in the scratch buffer of a complete request. -/
theorem bufCommand_seen (m : Nat) (rx : List Byte) (i t : Nat) (c : Half) (p : Command) (hi lo : Byte) (s : State) :
    (s.seen m rx i t c ((#v[(0x01 : Byte)] ++ p) ++ #v[hi, lo])).bufCommand = p := by
  have hp : p.toList.length = 13 := by simp
  have e : ((#v[(0x01 : Byte)] ++ p) ++ #v[hi, lo]).toList = 0x01 :: (p.toList ++ [hi, lo]) := by
    rw [Vector.toList_append, Vector.toList_append]
    rfl
  apply Vector.toList_inj.mp
  change sliceBytes ((#v[(0x01 : Byte)] ++ p) ++ #v[hi, lo]).toList 1 14 = p.toList
  rw [e, sliceBytes]
  simp [hp]

/-- The end of STEPS (rules R171, R273): the full queue is answered with 00, any other takes the Command and is answered with
01. -/
theorem stepsAppend_eq (s : State) :
    stepsAppend s =
      if s.count = 200 then
        .next { s.envTurn with crc := 0x2E3E, tx := s.tx ++ [0x00, 0x2E, 0x3E], phase := s.phase.afterPoll }
      else
        .next { s.envTurn with
          qmem := s.qmem.writeSlot s.tail s.bufCommand, tail := s.tail + 1, count := s.count + 1
          crc := 0x3E1F, tx := s.tx ++ [0x01, 0x3E, 0x1F], phase := s.phase.afterPoll } := by
  have full : crc16 [0x01, 0x00] = 0x2E3E := by decide +kernel
  have room : crc16 [0x01, 0x01] = 0x3E1F := by decide +kernel
  by_cases h : s.count = 200
  · rw [if_pos h, stepsAppend, State.queueTryAppend_full h]
    simp only [finish, State.sendResponse_eq, Params.statusFull, full]
    rfl
  · rw [if_neg h, stepsAppend, State.queueTryAppend_room h]
    simp only [finish, State.sendResponse_eq, Params.statusAccepted, room]
    rfl

end Sys2Proof.Machine
end

