-- ==== Sys2Proof/Laws/Instr.lean ====
section
/-! SUPPORT. Everything an instruction can do (rules R161, R170 to R175, R280), said once. -/

namespace Sys2Proof.Machine

/-- The ways an instruction can end, with the state it leaves. -/
inductive InstrOutcome (i : Instr) (s t : State) : Prop where
  /-- Filtered out: the opcode byte is gone and nothing else happens. -/
  | discarded (ht : t = s.returnFromPoll)
  /-- READY, let through. -/
  | answered (hi : i = .ready) (hr : s.reportOnly = false)
      (ht : t = { s.envTurn with
        crc := crc16 [0x00, s.params.readyMagic], buf := s.buf.set 0 0x00
        tx := s.tx ++
          [s.params.readyMagic, hi8 (crc16 [0x00, s.params.readyMagic]), lo8 (crc16 [0x00, s.params.readyMagic])]
        phase := s.phase.afterPoll })
  /-- EXEC_QUEUE, let through. -/
  | cleared (hi : i = .execQueue) (hr : s.reportOnly = false)
      (ht : t = { s with defer := false, buf := s.buf.set 0 0x02, phase := s.phase.afterPoll })
  /-- GET_ACCELS, which is always let through. -/
  | reported (hi : i = .getAccels)
      (ht : t = State.returnFromPoll (State.sendResponse 0x03
        [hi8 s.accelRear, lo8 s.accelRear, hi8 s.accelFront, lo8 s.accelFront] (s.storeOpcode 0x03)))
  /-- SWITCH_TO_ACCEL_REPORT_MODE, let through. -/
  | switched (hi : i = .switchToAccelReportMode) (hr : s.reportOnly = false)
      (ht : t = { s with phase := .eEnter, buf := s.buf.set 0 0x04 })
  /-- STEPS that raised Timeout or IntegrityFailure. -/
  | stepsRaised (hi : i = .steps) (hr : s.reportOnly = false) (m : Nat) (rx : List Byte) (j u : Nat) (c : Half)
      (b : Vector Byte 16) (ht : t = (s.seen m rx j u c b).returnFromPoll)
  /-- STEPS to a full queue. -/
  | stepsFull (hi : i = .steps) (hr : s.reportOnly = false) (hc : s.count = 200) (m : Nat) (rx : List Byte) (j u : Nat)
      (b : Vector Byte 16)
      (ht : t = { s.seen m rx j u 0x2E3E b with tx := s.tx ++ [0x00, 0x2E, 0x3E], phase := s.phase.afterPoll })
  /-- STEPS, accepted. -/
  | stepsStored (hi : i = .steps) (hr : s.reportOnly = false) (hc : s.count ≠ 200) (m : Nat) (rx : List Byte)
      (j u : Nat) (b : Vector Byte 16)
      (ht : t = { s.seen m rx j u 0x3E1F b with
        tx := s.tx ++ [0x01, 0x3E, 0x1F], phase := s.phase.afterPoll
        qmem := s.qmem.writeSlot s.tail (s.seen m rx j u 0x3E1F b).bufCommand, tail := s.tail + 1
        count := s.count + 1 })

/-- STEPS outside REPORT_ONLY is its handler (rule R161). -/
theorem execSteps_eq {s : State} (hr : s.reportOnly = false) :
    execSteps s = stepsWith s.params.stepsCrcSpan (s.storeOpcode 0x01) :=
  accept_of_passes (filtered_of_normal hr (by decide)) _

/-- STEPS is one of the four (rule R171). -/
theorem steps_outcome {s t : State} (hr : s.reportOnly = false) (h : execSteps s = .next t) :
    InstrOutcome .steps s t := by
  rw [execSteps_eq hr] at h
  obtain ⟨m, rx, j, u, c, b, h2 | h2⟩ := stepsWith_cases s.params.stepsCrcSpan (s.storeOpcode 0x01)
  · rw [h2, State.seen_storeOpcode] at h
    injection h with h
    exact .stepsRaised rfl hr m rx j u c b h.symm
  · rw [h2, State.seen_storeOpcode, stepsAppend_eq, State.seen_envTurn] at h
    have hcs : (s.seen m rx j u c b).count = s.count := by rw [State.seen_update]
    by_cases hc : s.count = 200
    · rw [if_pos (hcs.trans hc)] at h
      injection h with h
      refine .stepsFull rfl hr hc (m + 1) (rx ++ hostBytes (s.envTurns m).nextMoves) j u b ?_
      rw [← h]
      simp only [State.seen_update]
    · rw [if_neg (by rwa [hcs])] at h
      injection h with h
      refine .stepsStored rfl hr hc (m + 1) (rx ++ hostBytes (s.envTurns m).nextMoves) j u b ?_
      rw [← h]
      simp only [State.seen_update]
      rfl

/-- In REPORT_ONLY an instruction is discarded unless it is GET_ACCELS (rule R161). -/
theorem exec_reportOnly {i : Instr} {s : State} (hr : s.reportOnly = true) (hi : i ≠ .getAccels) :
    exec i s = .next s.returnFromPoll := by
  cases i <;> try rfl
  · exact accept_of_filtered (o := 0x00) (filtered_of_reportOnly hr (by decide)) _
  · exact accept_of_filtered (o := 0x01) (filtered_of_reportOnly hr (by decide)) _
  · rw [exec, execExecQueue, accept_of_filtered (o := 0x02) (filtered_of_reportOnly hr (by decide))]
  · exact absurd rfl hi
  · rw [exec, execSwitchToAccelReportMode, accept_of_filtered (o := 0x04) (filtered_of_reportOnly hr (by decide))]

/-- Every instruction ends in one of these ways (rules R161, R280). -/
theorem exec_outcome {i : Instr} {s t : State} (h : exec i s = .next t) : InstrOutcome i s t := by
  by_cases hr : s.reportOnly = false
  · cases i with
    | ready =>
      rw [exec, execReady, accept_of_passes (filtered_of_normal hr (by decide)), readyWith, State.sendResponse_eq,
        State.storeOpcode_eq, finish] at h
      injection h with h
      refine .answered rfl hr ?_
      rw [← h]
      generalize crc16 [0x00, s.params.readyMagic] = c
      rfl
    | steps => exact steps_outcome hr h
    | execQueue =>
      rw [exec, execExecQueue, accept_of_passes (filtered_of_normal hr (by decide)), State.storeOpcode_eq, finish] at h
      injection h with h
      exact .cleared rfl hr h.symm
    | getAccels =>
      rw [exec, execGetAccels, accept_of_passes (filtered_getAccels _), finish] at h
      injection h with h
      exact .reported rfl h.symm
    | switchToAccelReportMode =>
      rw [exec, execSwitchToAccelReportMode, accept_of_passes (filtered_of_normal hr (by decide)),
        State.storeOpcode_eq] at h
      injection h with h
      exact .switched rfl hr h.symm
    | reserved05 | reserved06_07 | reserved08_0F | reserved10_1F | reserved20_3F | reserved40_7F | reserved80_FF =>
      injection h with h
      exact .discarded h.symm
  · have hr' : s.reportOnly = true := by simpa using hr
    by_cases hi : i = .getAccels
    · subst hi
      rw [exec, execGetAccels, accept_of_passes (filtered_getAccels _), finish] at h
      injection h with h
      exact .reported rfl h.symm
    · rw [exec_reportOnly hr' hi] at h
      injection h with h
      exact .discarded h.symm

end Sys2Proof.Machine
end

