-- ==== Sys2Proof/Laws/Sampler.lean ====
section
/-! SUPPORT. The Accelerometer Sampler (rules R220 to R224) while the bus is in MASTER role and the other sensor is not
selected: what a stretch of sampling does, and what the readings add up to. -/

namespace Sys2Proof.Machine

/-- What a stretch of sampling on channel `ch` leaves: the environment has had `turns` turns, the sensor has received
`out` and answered `j` bytes, `m` readings have been counted and `v` added to the sum, and nothing else that lasts
has changed. -/
structure Sampled (ch : Channel) (turns : Nat) (out : List Byte) (j m : Nat) (v : Half) (s t : State) : Prop where
  env : t.env = s.env.drop turns
  rx : t.rx = (s.envTurns turns).rx
  ready : t.pinFpgaReady = (s.envTurns turns).pinFpgaReady
  sent : t.sensorOut ch = s.sensorOut ch ++ out
  sentOther : t.sensorOut ch.other = s.sensorOut ch.other
  answers : t.answers ch = (s.answers ch).drop j
  answersOther : t.answers ch.other = s.answers ch.other
  draws : t.draws = s.draws + (j - (s.answers ch).length)
  selectOther : t.select ch.other = s.select ch.other
  count : t.n = s.n + m
  total : t.sum = s.sum + v
  frame : t = { s with
    env := t.env, rx := t.rx, pinFpgaReady := t.pinFpgaReady, busData := t.busData, xferDone := t.xferDone
    sensorOutRear := t.sensorOutRear, sensorOutFront := t.sensorOutFront, rearAnswers := t.rearAnswers
    frontAnswers := t.frontAnswers, draws := t.draws, pinCsRear := t.pinCsRear, pinCsFront := t.pinCsFront
    sum := t.sum, n := t.n }

theorem State.envTurn_ready (s : State) : s.envTurn.pinFpgaReady = readyLevel s.pinFpgaReady s.nextMoves := rfl

/-- The ready pin after some turns depends on its level and on `env` only. -/
theorem State.envTurns_ready_congr {s t : State} (he : t.env = s.env) (hr : t.pinFpgaReady = s.pinFpgaReady) (k : Nat) :
    (t.envTurns k).pinFpgaReady = (s.envTurns k).pinFpgaReady := by
  induction k generalizing s t with
  | zero => exact hr
  | succ k ih =>
    refine ih ?_ ?_
    · simp [he]
    · simp [State.envTurn_ready, State.nextMoves, he, hr]

/-- The answers still to come after a stretch of sampling. -/
theorem Sampled.answer {ch : Channel} {turns j m : Nat} {out : List Byte} {v : Half} {s t : State}
    (h : Sampled ch turns out j m v s t) (i : Nat) : t.answer ch i = s.answer ch (j + i) := by
  simp only [State.answer, h.answers, h.draws, List.length_drop, List.getD_eq_getElem?_getD, List.getElem?_drop]
  by_cases hlt : j + i < (s.answers ch).length
  · simp [hlt]
  · rw [List.getElem?_eq_none (by omega)]
    simp only [Option.getD_none]
    congr 1
    omega

/-- Two stretches in a row. -/
theorem Sampled.trans {ch : Channel} {k₁ k₂ j₁ j₂ m₁ m₂ : Nat} {o₁ o₂ : List Byte} {v₁ v₂ : Half} {s t u : State}
    (h₁ : Sampled ch k₁ o₁ j₁ m₁ v₁ s t) (h₂ : Sampled ch k₂ o₂ j₂ m₂ v₂ t u) :
    Sampled ch (k₁ + k₂) (o₁ ++ o₂) (j₁ + j₂) (m₁ + m₂) (v₁ + v₂) s u where
  env := by rw [h₂.env, h₁.env, List.drop_drop]
  rx := by
    rw [h₂.rx, State.envTurns_rx, h₁.rx, State.envTurns_add, State.envTurns_rx k₂ (s.envTurns k₁)]
    rw [State.hostIn_congr (s := s.envTurns k₁) (t := t) (by simp [h₁.env])]
  ready := by
    rw [h₂.ready, State.envTurns_add]
    exact State.envTurns_ready_congr (by simp [h₁.env]) h₁.ready k₂
  sent := by rw [h₂.sent, h₁.sent, List.append_assoc]
  sentOther := h₂.sentOther.trans h₁.sentOther
  answers := by rw [h₂.answers, h₁.answers, List.drop_drop]
  answersOther := h₂.answersOther.trans h₁.answersOther
  draws := by
    rw [h₂.draws, h₁.draws, h₁.answers, List.length_drop]
    omega
  selectOther := h₂.selectOther.trans h₁.selectOther
  count := by rw [h₂.count, h₁.count, Nat.add_assoc]
  total := by rw [h₂.total, h₁.total, BitVec.add_assoc]
  frame := by
    rw [h₂.frame, h₁.frame]

theorem Sampled.busRole {ch : Channel} {turns j m : Nat} {out : List Byte} {v : Half} {s t : State}
    (h : Sampled ch turns out j m v s t) : t.busRole = s.busRole := by rw [h.frame]

/-- In MASTER role a turn of the environment leaves the bus and FPGA_OUT alone. -/
theorem State.envTurn_fpgaOut_of_master {s : State} (hm : s.busRole = .master) : s.envTurn.fpgaOut = s.fpgaOut := by
  change s.busAfterTurn.out = _
  rw [State.busAfterTurn_of_not_slave (by simp [hm])]

/-- A turn of the environment alone is a stretch of sampling, in MASTER role. -/
theorem Sampled.envTurn {ch : Channel} {s : State} (hm : s.busRole = .master) :
    Sampled ch 1 [] 0 0 0 s s.envTurn where
  env := by simp
  rx := rfl
  ready := rfl
  sent := by cases ch <;> simp [State.sensorOut]
  sentOther := by cases ch <;> rfl
  answers := by cases ch <;> rfl
  answersOther := by cases ch <;> rfl
  draws := by simp
  selectOther := by cases ch <;> rfl
  count := rfl
  total := by simp
  frame := by
    rw [← State.envTurn_fpgaOut_of_master hm]
    rfl

/-- Driving the channel's own chip-select. -/
theorem Sampled.pinSet {ch : Channel} {s : State} (hm : s.busRole = .master) (l : Level) :
    Sampled ch 1 [] 0 0 0 s (s.pinSet ch.csPin l) ∧ (s.pinSet ch.csPin l).select ch = l := by
  refine ⟨⟨?_, ?_, ?_, ?_, ?_, ?_, ?_, ?_, ?_, ?_, ?_, ?_⟩, by cases ch <;> rfl⟩
  · cases ch <;> simp [State.pinSet, Channel.csPin]
  · cases ch <;> rfl
  · cases ch <;> rfl
  · cases ch <;> simp [State.sensorOut, State.pinSet, Channel.csPin]
  · cases ch <;> rfl
  · cases ch <;> rfl
  · cases ch <;> rfl
  · cases ch <;> simp [State.pinSet, Channel.csPin]
  · cases ch <;> rfl
  · cases ch <;> rfl
  · cases ch <;> simp [State.pinSet, Channel.csPin]
  · cases ch <;> rw [← State.envTurn_fpgaOut_of_master hm] <;> rfl

theorem State.rearByte_eq (s : State) :
    s.rearByte = ({ s with rearAnswers := s.rearAnswers.drop 1, draws := s.draws + (1 - s.rearAnswers.length) },
      s.answer .rear 0) := by
  unfold State.rearByte
  split <;> rename_i h <;> simp [State.drawByte, State.answer, State.answers, h]

theorem State.frontByte_eq (s : State) :
    s.frontByte = ({ s with frontAnswers := s.frontAnswers.drop 1, draws := s.draws + (1 - s.frontAnswers.length) },
      s.answer .front 0) := by
  unfold State.frontByte
  split <;> rename_i h <;> simp [State.drawByte, State.answer, State.answers, h]

/-- One transfer to the selected sensor: it receives the byte sent and answers its next byte (rule R37). -/
theorem Sampled.masterTransfer {ch : Channel} {s : State} (hm : s.busRole = .master) (hs : s.select ch = .asserted)
    (ho : s.select ch.other = .deasserted) (b : Byte) :
    Sampled ch 1 [b] 1 0 0 s (s.masterTransfer b).1 ∧ (s.masterTransfer b).2 = s.answer ch 0 ∧
      (s.masterTransfer b).1.select ch = .asserted := by
  have e : s.envTurn.sensorExchange b = match ch with
      | .rear => State.rearByte { s.envTurn with sensorOutRear := s.sensorOutRear ++ [b] }
      | .front => State.frontByte { s.envTurn with sensorOutFront := s.sensorOutFront ++ [b] } := by
    cases ch <;> simp only [State.select, Channel.other] at hs ho <;>
      simp only [State.sensorExchange, State.envTurn_pinCsRear, State.envTurn_pinCsFront, hs, ho] <;> rfl
  have hf := State.envTurn_fpgaOut_of_master hm
  rw [State.masterTransfer, e]
  cases ch
  · rw [State.rearByte_eq]
    exact ⟨⟨by simp, rfl, rfl, rfl, rfl, rfl, rfl, rfl, rfl, rfl, by simp, by rw [← hf]; rfl⟩, rfl, hs⟩
  · rw [State.frontByte_eq]
    exact ⟨⟨by simp, rfl, rfl, rfl, rfl, rfl, rfl, rfl, rfl, rfl, by simp, by rw [← hf]; rfl⟩, rfl, hs⟩

/-- One raw reading (rules R103, R221). -/
theorem Sampled.readOnce {ch : Channel} {s : State} (hm : s.busRole = .master)
    (ho : s.select ch.other = .deasserted) :
    Sampled ch 5 [0x10, Config.dummyByte, Config.dummyByte] 3 0 0 s (Machine.readOnce ch s).1 ∧
      (Machine.readOnce ch s).2 = s.reading ch 0 ∧ (Machine.readOnce ch s).1.select ch = .deasserted := by
  have p := Sampled.pinSet (ch := ch) hm .asserted
  have t1 := Sampled.masterTransfer (p.1.busRole.trans hm) p.2 (p.1.selectOther.trans ho) Params.accelReadCmd
  have c1 := p.1.trans t1.1
  have t2 := Sampled.masterTransfer (c1.busRole.trans hm) t1.2.2 (c1.selectOther.trans ho) Config.dummyByte
  have c2 := c1.trans t2.1
  have t3 := Sampled.masterTransfer (c2.busRole.trans hm) t2.2.2 (c2.selectOther.trans ho) Config.dummyByte
  have c3 := c2.trans t3.1
  have q := Sampled.pinSet (ch := ch) (c3.busRole.trans hm) .deasserted
  have all := c3.trans q.1
  refine ⟨all, ?_, q.2⟩
  exact congrArg₂ joinBytes (t2.2.1.trans (c1.answer 0)) (t3.2.1.trans (c2.answer 0))

theorem contribution_toNat (r : Half) : (contribution r).toNat = r.toNat / 32 := by
  simp [contribution, Params.sampleShift, Nat.shiftRight_eq_div_pow]

/-- Counting a reading and adding to the sum. -/
theorem Sampled.add (ch : Channel) (t : State) (v : Half) :
    Sampled ch 0 [] 0 1 v t (t.addReading v) where
  env := rfl
  rx := rfl
  ready := rfl
  sent := by cases ch <;> simp [State.sensorOut, State.addReading]
  sentOther := by cases ch <;> rfl
  answers := by cases ch <;> rfl
  answersOther := by cases ch <;> rfl
  draws := by simp [State.addReading]
  selectOther := by cases ch <;> rfl
  count := rfl
  total := rfl
  frame := rfl

/-- The contributions of `k` readings, added as 16-bit values (rules R220, R222). -/
def State.partSum (ch : Channel) (s : State) : Nat → Half
  | 0 => 0
  | k + 1 => State.partSum ch s k + contribution (s.reading ch k)

theorem State.partSum_shift {ch : Channel} {s t : State} (h : ∀ i, t.answer ch i = s.answer ch (3 + i)) (k : Nat) :
    contribution (s.reading ch 0) + t.partSum ch k = s.partSum ch (k + 1) := by
  induction k with
  | zero => simp [State.partSum]
  | succ k ih =>
    rw [State.partSum, ← BitVec.add_assoc, ih]
    have : t.reading ch k = s.reading ch (k + 1) := by
      simp only [State.reading, h]
      congr 2 <;> omega
    rw [this]
    rfl

/-- The sum of at most 17 contributions does not overflow 16 bits (rule R40). -/
theorem State.partSum_toNat (ch : Channel) (s : State) (k : Nat) (hk : k ≤ 17) :
    (s.partSum ch k).toNat = ((List.range k).map fun i => (s.reading ch i).toNat / 32).sum ∧
      (s.partSum ch k).toNat ≤ 2047 * k := by
  induction k with
  | zero => simp [State.partSum]
  | succ k ih =>
    obtain ⟨h1, h2⟩ := ih (by omega)
    have hr := (s.reading ch k).isLt
    have hc := contribution_toNat (s.reading ch k)
    have hle : (contribution (s.reading ch k)).toNat ≤ 2047 := by omega
    have hadd : (s.partSum ch (k + 1)).toNat = (s.partSum ch k).toNat + (contribution (s.reading ch k)).toNat := by
      rw [State.partSum, BitVec.toNat_add]
      omega
    refine ⟨?_, by omega⟩
    rw [hadd, h1, hc, List.range_succ]
    simp

/-- `k` rounds of the sampling loop: what they leave, and what they add to the sum (rules R220, R222). -/
theorem Sampled.rounds {ch : Channel} (k : Nat) : ∀ {s : State}, s.busRole = .master →
    s.select ch.other = .deasserted →
    Sampled ch (6 * k) (List.replicate k [0x10, Config.dummyByte, Config.dummyByte]).flatten (3 * k) k
        (s.partSum ch k) s (sampleRounds k ch s) ∧
      (k ≠ 0 → (sampleRounds k ch s).select ch = .deasserted) := by
  induction k with
  | zero =>
    intro s hm ho
    refine ⟨⟨rfl, rfl, rfl, ?_, rfl, rfl, rfl, ?_, rfl, rfl, ?_, rfl⟩, by simp⟩ <;>
      simp [sampleRounds, State.partSum]
  | succ k ih =>
    intro s hm ho
    have d := Sampled.envTurn (ch := ch) hm
    have r := Sampled.readOnce (d.busRole.trans hm) (d.selectOther.trans ho)
    have c := (d.trans r.1).trans (Sampled.add ch _ (contribution (Machine.readOnce ch s.envTurn).2))
    have i := ih (c.busRole.trans hm) (c.selectOther.trans ho)
    have first : (Machine.readOnce ch s.envTurn).2 = s.reading ch 0 := by
      rw [r.2.1]
      exact congrArg₂ joinBytes (d.answer 1) (d.answer 2)
    refine ⟨?_, ?_⟩
    · have all := c.trans i.1
      have e6 : 1 + 5 + 0 + 6 * k = 6 * (k + 1) := by omega
      have e3 : 0 + 3 + 0 + 3 * k = 3 * (k + 1) := by omega
      have e1 : 0 + 0 + 1 + k = k + 1 := by omega
      have ev := State.partSum_shift (s := s) (fun j => c.answer j) k
      rw [e6, e3, e1, first] at all
      have e : sampleRound ch s = State.addReading (contribution (s.reading ch 0)) (Machine.readOnce ch s.envTurn).1 :=
        congrArg (fun r => State.addReading (contribution r) (Machine.readOnce ch s.envTurn).1) first
      rw [← ev, sampleRounds, e]
      simpa [List.replicate_succ, first] using all
    · intro _
      by_cases hk : k = 0
      · subst hk
        cases ch <;> exact r.2.2
      · exact i.2 hk

/-- A whole sample (rules R220, R223). -/
theorem Sampled.sample {ch : Channel} {s : State} (hm : s.busRole = .master) (ho : s.select ch.other = .deasserted) :
    Sampled ch 102 (List.replicate 17 [0x10, Config.dummyByte, Config.dummyByte]).flatten 51 17 (s.partSum ch 17)
        s.startSample (Machine.sample ch s).1 ∧
      (Machine.sample ch s).1.select ch = .deasserted ∧ (Machine.sample ch s).2 = s.partSum ch 17 / 17#16 := by
  have ps : ∀ k, s.startSample.partSum ch k = s.partSum ch k := by
    intro k
    induction k with
    | zero => rfl
    | succ k ih =>
      rw [State.partSum, State.partSum, ih]
      cases ch <;> rfl
  have h := Sampled.rounds (ch := ch) 17 (s := s.startSample) hm (by cases ch <;> exact ho)
  rw [ps] at h
  have e : (Machine.sample ch s).2 = (sampleRounds 17 ch s.startSample).sum / 17#16 := rfl
  refine ⟨h.1, h.2 (by decide), ?_⟩
  rw [e, h.1.total]
  simp [State.startSample]

/-- What sampling keeps. -/
structure SampleKeeps (s t : State) : Prop where
  crc : t.crc = s.crc
  head : t.head = s.head
  tail : t.tail = s.tail
  count : t.count = s.count
  qmem : t.qmem = s.qmem
  reportOnly : t.reportOnly = s.reportOnly
  defer : t.defer = s.defer
  busRole : t.busRole = s.busRole
  init : t.pinAccelInit = s.pinAccelInit
  enable : t.pinFpgaEnable = s.pinFpgaEnable
  xfer : t.xfer = s.xfer
  frameBuf : t.frameBuf = s.frameBuf
  tx : t.tx = s.tx
  fpgaOut : t.fpgaOut = s.fpgaOut

theorem SampleKeeps.trans {s t u : State} (h : SampleKeeps s t) (g : SampleKeeps t u) : SampleKeeps s u where
  crc := g.crc.trans h.crc
  head := g.head.trans h.head
  tail := g.tail.trans h.tail
  count := g.count.trans h.count
  qmem := g.qmem.trans h.qmem
  reportOnly := g.reportOnly.trans h.reportOnly
  defer := g.defer.trans h.defer
  busRole := g.busRole.trans h.busRole
  init := g.init.trans h.init
  enable := g.enable.trans h.enable
  xfer := g.xfer.trans h.xfer
  frameBuf := g.frameBuf.trans h.frameBuf
  tx := g.tx.trans h.tx
  fpgaOut := g.fpgaOut.trans h.fpgaOut

/-- What a sampling phase leaves: the kept fields, its own reading in range, the sensor's transactions, both chip-selects
deasserted (rules R220 to R224). -/
structure SampleLeaves (ch : Channel) (v : Half) (s t : State) : Prop where
  keeps : SampleKeeps s t
  value : v = s.partSum ch 17 / 17#16
  range : v.toNat ≤ 0x07FF
  sent : t.sensorOut ch = s.sensorOut ch ++ (List.replicate 17 [0x10, Config.dummyByte, Config.dummyByte]).flatten
  sentOther : t.sensorOut ch.other = s.sensorOut ch.other
  selected : t.select ch = .deasserted
  selectedOther : t.select ch.other = .deasserted
  env : t.env = s.env.drop 102
  rx : t.rx = (s.envTurns 102).rx

theorem SampleLeaves.sample {ch : Channel} {s : State} (hm : s.busRole = .master)
    (ho : s.select ch.other = .deasserted) :
    SampleLeaves ch (Machine.sample ch s).2 s (Machine.sample ch s).1 ∧
      (Machine.sample ch s).1.accelRear = s.accelRear ∧ (Machine.sample ch s).1.accelFront = s.accelFront := by
  obtain ⟨h, hsel, hv⟩ := Sampled.sample hm ho
  have hf := h.frame
  have hrx := h.rx
  have z : EnvSame s s.startSample := ⟨rfl, rfl, rfl, rfl, rfl, rfl, rfl⟩
  rw [z.envTurns_eq 102] at hrx
  have hb := (State.partSum_toNat ch s 17 (le_refl _)).2
  have hrange : (s.partSum ch 17 / 17#16).toNat ≤ 0x07FF := by
    rw [BitVec.toNat_udiv]
    have e : (17#16 : Half).toNat = 17 := rfl
    rw [e]
    omega
  have hsent := h.sent
  have hother := h.sentOther
  have hso := h.selectOther
  have henv := h.env
  have hro := State.envTurns_rx 102 s
  generalize Machine.sample ch s = r at *
  refine ⟨⟨⟨?_, ?_, ?_, ?_, ?_, ?_, ?_, ?_, ?_, ?_, ?_, ?_, ?_, ?_⟩, hv, hv ▸ hrange, ?sent, ?other, hsel, ?sel, henv,
    ?rx⟩, ?_, ?_⟩
  case sent =>
    rw [hsent]
    cases ch <;> rfl
  case other =>
    rw [hother]
    cases ch <;> rfl
  case sel =>
    rw [hso]
    cases ch <;> exact ho
  case rx =>
    rw [hrx, hro]
    rfl
  all_goals
    rw [hf]
    rfl

/-- `accelRear <- Sample(REAR)`. -/
theorem SampleLeaves.rear {s : State} (hm : s.busRole = .master) (ho : s.pinCsFront = .deasserted) :
    SampleLeaves .rear (sampleRear s).accelRear s (sampleRear s) ∧ (sampleRear s).accelFront = s.accelFront := by
  obtain ⟨h, -, hf⟩ := SampleLeaves.sample (ch := .rear) hm ho
  unfold sampleRear
  generalize Machine.sample .rear s = r at *
  obtain ⟨⟨a1, a2, a3, a4, a5, a6, a7, a8, a9, a10, a11, a12, a13, a14⟩, b1, b2, b3, b4, b5, b6, b7, b8⟩ := h
  exact ⟨⟨⟨a1, a2, a3, a4, a5, a6, a7, a8, a9, a10, a11, a12, a13, a14⟩, b1, b2, b3, b4, b5, b6, b7, b8⟩, hf⟩

/-- `accelFront <- Sample(FRONT)`. -/
theorem SampleLeaves.front {s : State} (hm : s.busRole = .master) (ho : s.pinCsRear = .deasserted) :
    SampleLeaves .front (sampleFront s).accelFront s (sampleFront s) ∧ (sampleFront s).accelRear = s.accelRear := by
  obtain ⟨h, hr, -⟩ := SampleLeaves.sample (ch := .front) hm ho
  unfold sampleFront
  generalize Machine.sample .front s = r at *
  obtain ⟨⟨a1, a2, a3, a4, a5, a6, a7, a8, a9, a10, a11, a12, a13, a14⟩, b1, b2, b3, b4, b5, b6, b7, b8⟩ := h
  exact ⟨⟨⟨a1, a2, a3, a4, a5, a6, a7, a8, a9, a10, a11, a12, a13, a14⟩, b1, b2, b3, b4, b5, b6, b7, b8⟩, hr⟩

end Sys2Proof.Machine
end

