-- ==== Sys2Proof/Laws/ModeFsm.lean ====
section
/-! SUPPORT. The Power-On / Mode State Machine (rules R241 to R249): what driving pins amounts to, and the phases as one
equation each. -/

namespace Sys2Proof.Machine

/-- The state after `k` turns of the environment, the output pins driven. -/
def State.pinned (k : Nat) (init enable rear front : Level) (s : State) : State :=
  { s.envTurns k with pinAccelInit := init, pinFpgaEnable := enable, pinCsRear := rear, pinCsFront := front }

theorem State.pinned_zero (s : State) :
    s.pinned 0 s.pinAccelInit s.pinFpgaEnable s.pinCsRear s.pinCsFront = s := rfl

theorem State.pinned_envTurn (k : Nat) (a b c d : Level) (s : State) :
    (s.pinned k a b c d).envTurn = s.pinned (k + 1) a b c d := by
  have h : EnvSame (s.envTurns k) (s.pinned k a b c d) := ⟨rfl, rfl, rfl, rfl, rfl, rfl, rfl⟩
  rw [h.envTurn_eq]
  unfold State.pinned
  rw [← State.envTurn_envTurns]
  rfl

/-- One `PinSet` (rules R11, R34). -/
theorem State.pinSet_pinned (k : Nat) (a b c d : Level) (p : OutputPin) (l : Level) (s : State) :
    (s.pinned k a b c d).pinSet p l = s.pinned (k + 1)
      (if p = .accelInit then l else a) (if p = .fpgaEnable then l else b)
      (if p = .csRear then l else c) (if p = .csFront then l else d) := by
  cases p <;> simp only [State.pinSet, State.pinned_envTurn] <;> rfl

/-- Phase `B_IDLE_PINS` (rule R241), the four pins driven in turn. -/
theorem idlePins_eq (s : State) :
    idlePins s = .next { s.pinned 4 .deasserted .deasserted .deasserted .deasserted with phase := .bCheckReady } := by
  unfold idlePins
  rw [← State.pinned_zero s]
  simp only [State.pinSet_pinned]
  rw [State.pinned_zero s]
  rfl

/-- Phase `B_CHECK_READY` (rules R242, R275). -/
theorem checkReady_eq (s : State) :
    checkReady s = .next { s.envTurn with
      phase := if s.envTurn.pinFpgaReady = .asserted then .bInit else .eEnter } := by
  have e : s.pinReadReady = (s.envTurn, s.envTurn.pinFpgaReady) := rfl
  unfold checkReady
  rw [e]
  generalize s.envTurn = t
  cases h : t.pinFpgaReady <;> rfl

/-- The steps shared by bring-up and the report-only entry (rules R243, R247). -/
theorem takeMasterRole_eq (s : State) :
    takeMasterRole s = State.envTurn { s.envTurns 3 with pinAccelInit := .asserted, busRole := .master } := rfl

/-- In `MASTER` role the turn is plain: pins, role and the turns. -/
theorem takeMasterRole_frame (s : State) :
    takeMasterRole s = { s with
      env := s.env.drop 4, rx := (s.envTurns 4).rx, pinFpgaReady := (s.envTurns 4).pinFpgaReady
      busData := (s.envTurns 3).busData, xferDone := (s.envTurns 3).xferDone, fpgaOut := (s.envTurns 3).fpgaOut
      pinAccelInit := .asserted, busRole := .master } := by
  have hb := State.envTurns_bus_of_not_slave 1
    (s := { s.envTurns 3 with pinAccelInit := .asserted, busRole := .master }) (by simp)
  have e4 : s.envTurns 4 = (s.envTurns 3).envTurn := (State.envTurn_envTurns 3 s).symm
  rw [takeMasterRole_eq, ← State.envTurns_one, State.envTurns_eq 1, hb.1, hb.2.1, hb.2.2, e4]
  simp only [State.envTurns_one, State.envTurn_rx, State.envTurn_ready, State.nextMoves, State.envTurn_env,
    State.envTurns_env, State.envTurns_phase, State.envTurns_crc, State.envTurns_accelRear, State.envTurns_accelFront,
    State.envTurns_head, State.envTurns_tail, State.envTurns_count, State.envTurns_qmem, State.envTurns_buf,
    State.envTurns_reportOnly, State.envTurns_defer, State.envTurns_pinFpgaEnable, State.envTurns_pinCsRear,
    State.envTurns_pinCsFront, State.envTurns_xfer, State.envTurns_interbyte, State.envTurns_transaction,
    State.envTurns_frameBuf, State.envTurns_sum, State.envTurns_n, State.envTurns_tx, State.envTurns_sensorOutRear,
    State.envTurns_sensorOutFront, State.envTurns_rearAnswers, State.envTurns_frontAnswers, State.envTurns_draws,
    State.envTurns_params, List.tail_drop]

/-- The steps of `B_FINISH` before the last (rule R245). -/
theorem takeSlaveRole_frame (s : State) :
    State.envTurn { s.envTurns 3 with pinAccelInit := .deasserted, busRole := .slave } = { s with
      busRole := .slave, pinAccelInit := .deasserted, env := s.env.drop 4, rx := (s.envTurns 4).rx
      pinFpgaReady := (s.envTurns 4).pinFpgaReady
      busData := (State.envTurn { s.envTurns 3 with pinAccelInit := .deasserted, busRole := .slave }).busData
      xferDone := (State.envTurn { s.envTurns 3 with pinAccelInit := .deasserted, busRole := .slave }).xferDone
      fpgaOut := (State.envTurn { s.envTurns 3 with pinAccelInit := .deasserted, busRole := .slave }).fpgaOut } := by
  conv_lhs => rw [← State.envTurns_one, State.envTurns_eq 1]
  rw [← State.envTurn_envTurns 3]
  simp [State.envTurns_one, State.envTurn_rx, State.envTurn_ready, State.nextMoves]

/-- Phase `B_FINISH` (rule R245). -/
theorem finishBringup_eq (s : State) :
    finishBringup s = .next
      { State.envTurn { s.envTurns 3 with pinAccelInit := .deasserted, busRole := .slave } with
        pinFpgaEnable := .asserted, phase := .nWait } := rfl

end Sys2Proof.Machine
end

