-- ==== Sys2Proof/Laws/PerInstr.lean ====
section
/-! SUPPORT. One statement made per instruction: the dispatcher's filter discards an instruction's opcode outside REPORT_ONLY
exactly when the instruction is of the reserved range, its operand being in its row (rules R97, R98, R161). -/

namespace Sys2Proof.Laws.FilterAgrees

/-- The filter and the opcode map agree on an instruction: outside REPORT_ONLY its opcode is let through if it is one of the
five commands, and in REPORT_ONLY if it is GET_ACCELS. -/
def Statement (i : Instr) : Prop :=
  i.wellFormed = true →
    (Machine.filtered false (encodeOpcode i) = false ↔
      i = .ready ∨ i = .steps ∨ i = .execQueue ∨ i = .getAccels ∨ i = .switchToAccelReportMode) ∧
    (Machine.filtered true (encodeOpcode i) = false ↔ i = .getAccels)

/-- An instruction with an opcode above 0x04 is let through in no mode, and is none of the five commands. -/
theorem of_reserved_range {i : Instr} (h : 0x04 < (encodeOpcode i).toNat) : Statement i := by
  intro _
  have e : ∀ r, Machine.filtered r (encodeOpcode i) = true := fun r => by
    simp only [Machine.filtered, Bool.or_eq_true, decide_eq_true_eq]
    exact .inr h
  rw [e, e]
  cases i <;> simp_all [encodeOpcode]

theorem ready : Statement .ready := by unfold Statement; decide

theorem steps : Statement .steps := by unfold Statement; decide

theorem execQueue : Statement .execQueue := by unfold Statement; decide

theorem getAccels : Statement .getAccels := by unfold Statement; decide

theorem switchToAccelReportMode : Statement .switchToAccelReportMode := by unfold Statement; decide

theorem reserved05 : Statement .reserved05 := of_reserved_range (by decide)

theorem reserved06_07 (opcode : Byte) : Statement (.reserved06_07 opcode) := fun h =>
  of_reserved_range (Nat.lt_of_lt_of_le (by decide) (of_decide_eq_true h).1) h

theorem reserved08_0F (opcode : Byte) : Statement (.reserved08_0F opcode) := fun h =>
  of_reserved_range (Nat.lt_of_lt_of_le (by decide) (of_decide_eq_true h).1) h

theorem reserved10_1F (opcode : Byte) : Statement (.reserved10_1F opcode) := fun h =>
  of_reserved_range (Nat.lt_of_lt_of_le (by decide) (of_decide_eq_true h).1) h

theorem reserved20_3F (opcode : Byte) : Statement (.reserved20_3F opcode) := fun h =>
  of_reserved_range (Nat.lt_of_lt_of_le (by decide) (of_decide_eq_true h).1) h

theorem reserved40_7F (opcode : Byte) : Statement (.reserved40_7F opcode) := fun h =>
  of_reserved_range (Nat.lt_of_lt_of_le (by decide) (of_decide_eq_true h).1) h

theorem reserved80_FF (opcode : Byte) : Statement (.reserved80_FF opcode) := fun h =>
  of_reserved_range (Nat.lt_of_lt_of_le (by decide) (of_decide_eq_true h).1) h

end Sys2Proof.Laws.FilterAgrees
end

