-- ==== Sys2Proof/Laws/Step.lean ====
section
/-! SUPPORT. The operation a step performs, phase by phase (rule R30), and one step of a run. -/

namespace Sys2Proof.Machine

variable {s : State}

theorem step_bIdlePins (h : s.phase = .bIdlePins) : step s = idlePins s := by unfold step; rw [h]
theorem step_bCheckReady (h : s.phase = .bCheckReady) : step s = checkReady s := by unfold step; rw [h]
theorem step_bInit (h : s.phase = .bInit) : step s = initAccel s := by unfold step; rw [h]
theorem step_bBaseline (h : s.phase = .bBaseline) : step s = baseline s := by unfold step; rw [h]
theorem step_bFinish (h : s.phase = .bFinish) : step s = finishBringup s := by unfold step; rw [h]
theorem step_nWait (h : s.phase = .nWait) : step s = waitSentinel s := by unfold step; rw [h]
theorem step_nSend {i : Fin 19} (h : s.phase = .nSend i) : step s = sendByte i s := by unfold step; rw [h]
theorem step_eEnter (h : s.phase = .eEnter) : step s = enterReportOnly s := by unfold step; rw [h]
theorem step_pSampleRear (h : s.phase = .pSampleRear) : step s = reportRear s := by unfold step; rw [h]
theorem step_pSampleFront (h : s.phase = .pSampleFront) : step s = reportFront s := by unfold step; rw [h]

/-- The three polling phases (rule R160). -/
theorem step_polls (h : s.phase.polls = true) : step s = poll s := by
  cases hp : s.phase <;> simp only [hp, Phase.polls] at h <;> first | exact absurd h (by decide) | (unfold step; rw [hp])

/-- The phases that do not poll. -/
theorem polls_eq_false_iff (p : Phase) :
    p.polls = false ↔ p = .bIdlePins ∨ p = .bCheckReady ∨ p = .bInit ∨ p = .bBaseline ∨ p = .bFinish ∨ p = .nWait ∨
      (∃ i, p = .nSend i) ∨ p = .eEnter ∨ p = .pSampleRear ∨ p = .pSampleFront := by
  cases p <;> simp [Phase.polls]

/-- One more step of any machine. -/
theorem run_of_next (M : Host.Core) (k : Nat) {s t : M.State} (h : M.step s = .next t) : M.run (k + 1) s = M.run k t := by
  rw [Host.Core.run, h]

/-- One more step of the block. -/
theorem core_run_succ (k : Nat) {s t : State} (h : step s = .next t) :
    Sys2Proof.core.run (k + 1) s = Sys2Proof.core.run k t :=
  run_of_next Sys2Proof.core k h

end Sys2Proof.Machine
end

