-- ==== Sys2Proof/Laws/StepCases.lean ====
section
/-! SUPPORT. Everything a step can do (rule R30's table), said once. -/

namespace Sys2Proof.Machine

/-- The ways a step can end, with the state it leaves. -/
inductive StepOutcome (s t : State) : Prop where
  | idlePins (hp : s.phase = .bIdlePins)
      (ht : t = { s.pinned 4 .deasserted .deasserted .deasserted .deasserted with phase := .bCheckReady })
  | checkReady (hp : s.phase = .bCheckReady)
      (ht : t = { s.envTurn with phase := if s.envTurn.pinFpgaReady = .asserted then .bInit else .eEnter })
  | init (hp : s.phase = .bInit) (ht : t = { takeMasterRole s with phase := .bBaseline })
  | baseline (hp : s.phase = .bBaseline) (hm : s.busRole = .master)
      (ht : t = { sampleFront (sampleRear s) with phase := .bFinish })
  | finish (hp : s.phase = .bFinish)
      (ht : t = { State.envTurn { s.envTurns 3 with pinAccelInit := .deasserted, busRole := .slave } with
        pinFpgaEnable := .asserted, phase := .nWait })
  | waits (hp : s.phase = .nWait) (hb : s.envTurn.busData ≠ 0x5A) (ht : t = s.envTurn)
  | builds (hp : s.phase = .nWait) (hb : s.envTurn.busData = 0x5A) (u : State) (f : Frame)
      (hf : buildFrameWith s.params.deferGateEffective { s.envTurns 2 with busData := 0x00 } = (u, f))
      (ht : t = { u with frameBuf := f, phase := .nSend 0 })
  | sends (i : Fin 19) (hp : s.phase = .nSend i) (ht : sendByte i s = .next t)
  | enters (hp : s.phase = .eEnter) (ht : t = { takeMasterRole s.setReportOnly with phase := .pSampleRear })
  | samplesRear (hp : s.phase = .pSampleRear) (hm : s.busRole = .master)
      (ht : t = { sampleRear s with phase := .pPollA })
  | samplesFront (hp : s.phase = .pSampleFront) (hm : s.busRole = .master)
      (ht : t = { sampleFront s with phase := .pPollB })
  | pollsEmpty (hp : s.phase.polls = true) (hrx : s.envTurn.rx = []) (ht : t = s.envTurn.returnFromPoll)
  | pollsOne (hp : s.phase.polls = true) (b : Byte) (rest : List Byte) (hrx : s.envTurn.rx = b :: rest)
      (ht : InstrOutcome (decodeOpcode b) { s.envTurn with rx := rest } t)

/-- A poll with RX empty, or one opcode byte (rule R160). -/
theorem poll_outcome {s t : State} (hp : s.phase.polls = true) (h : step s = .next t) : StepOutcome s t := by
  rw [step_polls hp] at h
  unfold poll at h
  cases hrx : s.envTurn.rx with
  | nil =>
    rw [State.rxTry_empty hrx] at h
    injection h with h
    exact .pollsEmpty hp hrx h.symm
  | cons b rest =>
    rw [State.rxTry_cons hrx] at h
    exact .pollsOne hp b rest hrx (exec_outcome h)

/-- Every step ends in one of these ways (rule R30). -/
theorem step_outcome {s t : State} (h : step s = .next t) : StepOutcome s t := by
  cases hp : s.phase with
  | bIdlePins =>
    rw [step_bIdlePins hp, idlePins_eq] at h
    injection h with h
    exact .idlePins hp h.symm
  | bCheckReady =>
    rw [step_bCheckReady hp, checkReady_eq] at h
    injection h with h
    exact .checkReady hp h.symm
  | bInit =>
    rw [step_bInit hp, initAccel] at h
    injection h with h
    exact .init hp h.symm
  | bBaseline =>
    rw [step_bBaseline hp, Machine.baseline] at h
    by_cases hm : s.busRole = .master
    · rw [if_pos hm] at h
      injection h with h
      exact .baseline hp hm h.symm
    · rw [if_neg hm] at h
      cases h
  | bFinish =>
    rw [step_bFinish hp, finishBringup_eq] at h
    injection h with h
    exact .finish hp h.symm
  | nWait =>
    rw [step_nWait hp, waitSentinel] at h
    by_cases hb : s.envTurn.busData = 0x5A
    · rw [waitSentinelWith_sentinel hb rfl] at h
      injection h with h
      exact .builds hp hb _ _ rfl h.symm
    · rw [waitSentinelWith_other hb] at h
      injection h with h
      exact .waits hp hb h.symm
  | nSend i =>
    rw [step_nSend hp] at h
    exact .sends i hp h
  | nPoll => exact poll_outcome (by rw [hp]; rfl) h
  | pPollA => exact poll_outcome (by rw [hp]; rfl) h
  | pPollB => exact poll_outcome (by rw [hp]; rfl) h
  | eEnter =>
    rw [step_eEnter hp, enterReportOnly] at h
    injection h with h
    exact .enters hp h.symm
  | pSampleRear =>
    rw [step_pSampleRear hp, reportRear] at h
    by_cases hm : s.busRole = .master
    · rw [if_pos hm] at h
      injection h with h
      exact .samplesRear hp hm h.symm
    · rw [if_neg hm] at h
      cases h
  | pSampleFront =>
    rw [step_pSampleFront hp, reportFront] at h
    by_cases hm : s.busRole = .master
    · rw [if_pos hm] at h
      injection h with h
      exact .samplesFront hp hm h.symm
    · rw [if_neg hm] at h
      cases h

end Sys2Proof.Machine
end

