-- ==== Sys2Proof/Tests/Slice0.lean ====
section
/-! SUPPORT. Tests, each on one step or one operation, with results from spec/95_test_vectors.md (a vector's name) or worked
out from a rule; and, for every obligation with hypotheses, a witness that they can be met together. -/

namespace Sys2Proof.Tests

open Sys2Proof Sys2Proof.Machine

/-! ### Helpers -/

/-- The next state an outcome gives, if it gives one. -/
def answer : Host.Outcome State Fault Refusal → Option State
  | .next s => some s
  | .fault _ => none
  | .refused _ => none

/-- The role the bus has at the start of a phase (for `E_ENTER`, coming from NORMAL). -/
def roleAt : Phase → BusRole
  | .bIdlePins => .unconfigured
  | .bCheckReady => .unconfigured
  | .bInit => .unconfigured
  | .bBaseline => .master
  | .bFinish => .master
  | .pSampleRear => .master
  | .pPollA => .master
  | .pSampleFront => .master
  | .pPollB => .master
  | _ => .slave

/-- A state at the start of a phase, with nothing queued. -/
def parked (p : Phase) : State := { State.reset with
  phase := p
  busRole := roleAt p
  reportOnly := p.inReportLoop
  pinAccelInit := p.initLevel.getD .deasserted
  pinFpgaEnable := if p.mode = .bringup then .deasserted else .asserted }

/-- The same with bytes in RX. -/
def fed (p : Phase) (bytes : List Byte) : State := { parked p with rx := bytes }

/-- The payload `01 02 .. 0D` of the spec's vectors. -/
def payload : Command := #v[0x01, 0x02, 0x03, 0x04, 0x05, 0x06, 0x07, 0x08, 0x09, 0x0A, 0x0B, 0x0C, 0x0D]

/-- The STEPS request of V-D-4. -/
def request : List Byte :=
  [0x01, 0x01, 0x02, 0x03, 0x04, 0x05, 0x06, 0x07, 0x08, 0x09, 0x0A, 0x0B, 0x0C, 0x0D, 0x03, 0xAA]

/-- A sensor that answers one reading `k` times. -/
def readings (k : Nat) (hi lo : Byte) : List Byte := (List.replicate k [0x00, hi, lo]).flatten

/-- What one step sends on TX. -/
def sent (s : State) : Option (List Byte) := (answer (step s)).map (·.tx)

/-! ### WellFormed: a term each check refuses, and one it accepts -/

theorem test_wellFormed_06_07 : (Instr.reserved06_07 0x05).wellFormed = false ∧
    (Instr.reserved06_07 0x08).wellFormed = false ∧ (Instr.reserved06_07 0x07).wellFormed = true := by decide

theorem test_wellFormed_08_0F : (Instr.reserved08_0F 0x07).wellFormed = false ∧
    (Instr.reserved08_0F 0x10).wellFormed = false ∧ (Instr.reserved08_0F 0x0F).wellFormed = true := by decide

theorem test_wellFormed_10_1F : (Instr.reserved10_1F 0x0F).wellFormed = false ∧
    (Instr.reserved10_1F 0x20).wellFormed = false ∧ (Instr.reserved10_1F 0x10).wellFormed = true := by decide

theorem test_wellFormed_20_3F : (Instr.reserved20_3F 0x1F).wellFormed = false ∧
    (Instr.reserved20_3F 0x40).wellFormed = false ∧ (Instr.reserved20_3F 0x3F).wellFormed = true := by decide

theorem test_wellFormed_40_7F : (Instr.reserved40_7F 0x3F).wellFormed = false ∧
    (Instr.reserved40_7F 0x80).wellFormed = false ∧ (Instr.reserved40_7F 0x40).wellFormed = true := by decide

theorem test_wellFormed_80_FF : (Instr.reserved80_FF 0x7F).wellFormed = false ∧
    (Instr.reserved80_FF 0x80).wellFormed = true ∧ (Instr.reserved80_FF 0xFF).wellFormed = true := by decide

/-! ### Decoding: the opcode byte written out in bits, from the opcode map of rule R97 -/

theorem test_decode_ready : decode [0b00000000] = .ok (.ready, []) := by decide
theorem test_decode_steps : decode [0b00000001, 0x77] = .ok (.steps, [0x77]) := by decide
theorem test_decode_execQueue : decode [0b00000010] = .ok (.execQueue, []) := by decide
theorem test_decode_getAccels : decode [0b00000011] = .ok (.getAccels, []) := by decide
theorem test_decode_switch : decode [0b00000100] = .ok (.switchToAccelReportMode, []) := by decide
theorem test_decode_05 : decode [0b00000101] = .ok (.reserved05, []) := by decide
theorem test_decode_06_07 : decode [0b00000110] = .ok (.reserved06_07 0x06, []) := by decide
theorem test_decode_08_0F : decode [0b00001000] = .ok (.reserved08_0F 0x08, []) := by decide
theorem test_decode_10_1F : decode [0b00010000] = .ok (.reserved10_1F 0x10, []) := by decide
theorem test_decode_20_3F : decode [0b00100000] = .ok (.reserved20_3F 0x20, []) := by decide
theorem test_decode_40_7F : decode [0b01011010] = .ok (.reserved40_7F 0x5A, []) := by decide
theorem test_decode_80_FF : decode [0b10000000] = .ok (.reserved80_FF 0x80, []) := by decide

/-- The filter compares opcodes as unsigned numbers: 0x80 is above 0x04 (rule R90). -/
theorem test_filter_unsigned : filtered false 0x80 = true ∧ filtered false 0x04 = false := by decide

/-! ### Fetching a placed word -/

/-- `withFetchWord` makes the very next step run the instruction, here READY. -/
theorem test_withFetchWord_ready : sent (State.reset.withFetchWord 8 0x00) = some [0x40, 0x55, 0xCB] := by
  decide +kernel

/-- A STEPS word of zero operands: its checksum is not 0x0000 (V-CRC-4: 0xD20B), so nothing is sent. -/
theorem test_withFetchWord_steps : sent (State.reset.withFetchWord 8 0x01) = some [] := by decide +kernel

/-! ### The checksum (spec/95, section 2) -/

/-- V-CRC-2, round by round for the first four rounds. -/
theorem test_crc_rounds : crcRound 0xFFFF = 0xEFDF ∧ crcRound 0xEFDF = 0xCF9F ∧ crcRound 0xCF9F = 0x8F1F ∧
    crcRound 0x8F1F = 0x0E1F ∧ crcRound 0x0E1F = 0x1C3E := by decide +kernel

/-- V-CRC-1 and V-CRC-4. -/
theorem test_crc_values : crc16 [] = 0xFFFF ∧ crc16 [0x00, 0x40] = 0x55CB ∧ crc16 [0xFF, 0xFF] = 0x0000 ∧
    crc16 [0x12, 0x34, 0x56, 0x78] = 0x30EC ∧ crc16 (0x01 :: payload.toList) = 0x03AA ∧
    crc16 payload.toList = 0xF9AD := by decide +kernel

/-- V-CRC-6: folds from other accumulator values. -/
theorem test_crc_carry : crcByte 0x0000 0x00 = 0x0000 ∧ crcByte 0x0000 0x01 = 0x1021 ∧ crcByte 0x0000 0x80 = 0x9188 ∧
    crcByte 0x8000 0x00 = 0x9188 := by decide +kernel

/-! ### The commands (spec/95, section 4) -/

/-- V-D-2 and V-D-3: one opcode per poll. -/
theorem test_ready : sent (fed .nPoll [0x00]) = some [0x40, 0x55, 0xCB] ∧
    (answer (step (fed .nPoll [0x00, 0x00]))).map (·.rx) = some [0x00] := by decide +kernel

/-- V-D-28: discarded in REPORT_ONLY. -/
theorem test_ready_reportOnly : sent (fed .pPollA [0x00]) = some [] := by decide +kernel

/-- V-D-4: accepted, the payload in slot 0. -/
theorem test_steps : sent (fed .nPoll request) = some [0x01, 0x3E, 0x1F] ∧
    (answer (step (fed .nPoll request))).map (fun t => (t.rx, t.tail, t.count, t.qmem.readSlot 0)) =
      some ([], 1, 1, some payload) := by decide +kernel

/-- V-D-16 and V-D-17: the other span of the request checksum. -/
theorem test_steps_payloadOnly :
    sent { fed .nPoll (0x01 :: payload.toList ++ [0xF9, 0xAD]) with
      params := { OpenParams.recommended with stepsCrcSpan := .payloadOnly } } = some [0x01, 0x3E, 0x1F] ∧
    sent { fed .nPoll request with
      params := { OpenParams.recommended with stepsCrcSpan := .payloadOnly } } = some [] := by decide +kernel

/-- V-D-18. -/
theorem test_execQueue : (answer (step (fed .nPoll [0x02]))).map (fun t => (t.defer, t.tx)) = some (false, []) := by
  decide +kernel

/-- V-D-30. -/
theorem test_execQueue_reportOnly : (answer (step (fed .pPollB [0x02]))).map (·.defer) = some true := by decide +kernel

/-- V-D-23: rear first, each high byte first. -/
theorem test_getAccels : sent { fed .nPoll [0x03] with accelRear := 0x0123, accelFront := 0x0456 } =
    some [0x01, 0x23, 0x04, 0x56, 0xA0, 0x0B] := by decide +kernel

/-- V-D-31: answered in REPORT_ONLY. -/
theorem test_getAccels_reportOnly : sent { fed .pPollB [0x03] with accelRear := 0x0040, accelFront := 0x0060 } =
    some [0x00, 0x40, 0x00, 0x60, 0x8E, 0xD5] := by decide +kernel

/-- V-D-24. -/
theorem test_switch : (answer (step (fed .nPoll [0x04]))).map (·.phase) = some .eEnter := by decide +kernel

/-- V-D-32: in REPORT_ONLY the entry sequence does not run again. -/
theorem test_switch_reportOnly : (answer (step (fed .pPollA [0x04]))).map (·.phase) = some .pSampleFront := by
  decide +kernel

/-- V-D-25 to V-D-27, and one opcode of each other reserved row (rule R161): consumed and discarded. -/
theorem test_reserved : [0x05, 0x06, 0x08, 0x10, 0x20, 0x5A, 0xFF].all (fun b =>
    decide ((answer (step (fed .nPoll [b, 0x00]))).map (fun t => (t.rx, t.tx, t.phase)) =
      some ([0x00], [], .nWait))) = true := by decide +kernel

/-! ### The timed read (rule R163), under limits of the test's own -/

/-- V-D-9: three bytes, then silence. -/
theorem test_timedRead_short : (timedReadWith 3 9 13 (fed .nPoll [0x01, 0x02, 0x03])).2 = [0x01, 0x02, 0x03] ∧
    (timedReadWith 3 9 13 (fed .nPoll [0x01, 0x02, 0x03])).1.transaction = 4 := by decide +kernel

/-- V-D-13: bytes that arrive one turn apart are all read, and the transaction counter is not restarted by them. -/
theorem test_timedRead_spread :
    (timedReadWith 1 9 2 { parked .nPoll with env := [[], [.hostByte 0xA1], [], [.hostByte 0xB2]] }).2 = [0xA1, 0xB2] ∧
    (timedReadWith 1 9 2 { parked .nPoll with env := [[], [.hostByte 0xA1], [], [.hostByte 0xB2]] }).1.transaction =
      2 := by decide +kernel

/-! ### The queue (spec/95, section 3) -/

/-- V-Q-5: `tail` wraps from 199 to 0 and the queue is full. -/
theorem test_append_wraps :
    (fun r : State × Bool => (r.1.tail, r.1.count, r.2, Memory.read r.1.qmem 2599))
      (State.queueTryAppend payload { parked .nPoll with tail := 199, count := 199 }) =
      (0, 200, true, some 0x0D) := by decide +kernel

/-- V-Q-10: `head` wraps from 199 to 0. -/
theorem test_pop_wraps :
    (fun r : State × Option Command => (r.1.head, r.1.count, r.1.draws, r.2))
      (State.queueTryPop { parked .nWait with
        head := 199, tail := 5, count := 6, qmem := Memory.writeSlot [] 199 payload }) =
      (0, 5, 0, some payload) := by decide +kernel

/-- A slot of which only byte 0 was ever written (U2): the pop completes, and its other bytes are free. -/
theorem test_pop_unwritten :
    (fun r : State × Option Command => (r.1.head, r.1.count, r.1.draws, r.2.isSome))
      (State.queueTryPop { parked .nWait with count := 1, tail := 1, qmem := [(0, 0x42)] }) =
      (1, 0, 13, true) := by decide +kernel

/-! ### The sampler (spec/95, section 5) -/

/-- V-A-1 and V-A-3. -/
theorem test_sample : (sample .rear { parked .pSampleRear with rearAnswers := readings 17 0x04 0x00 }).2 = 0x0020 ∧
    (sample .rear { parked .pSampleRear with rearAnswers := readings 17 0xFF 0xFF }).2 = 0x07FF := by decide +kernel

/-- V-A-8: shift first, then add, then truncate. -/
theorem test_sample_truncates :
    (sample .front { parked .pSampleFront with
      frontAnswers := readings 16 0xFF 0xE0 ++ readings 1 0x00 0x00 }).2 = 0x0786 := by decide +kernel

/-- V-M-4: each sampling phase writes its own reading. -/
theorem test_report_loop :
    (answer (step { parked .pSampleRear with rearAnswers := readings 17 0x08 0x00 })).map
        (fun t => (t.accelRear, t.accelFront, t.phase)) = some (0x0040, 0x0000, .pPollA) ∧
    (answer (step { parked .pSampleFront with frontAnswers := readings 17 0x0C 0x00 })).map
        (fun t => (t.accelRear, t.accelFront, t.phase)) = some (0x0000, 0x0060, .pPollB) := by decide +kernel

/-! ### The exchange loop and the mode state machine (spec/95, sections 6 and 7) -/

/-- V-F-2 and V-F-3: only 0x5A is the sentinel, and it is cleared. -/
theorem test_wait : (answer (step { parked .nWait with busData := 0xA5 })).map (fun t => (t.phase, t.busData)) =
      some (.nWait, 0xA5) ∧
    (answer (step { parked .nWait with busData := 0x5A })).map (fun t => (t.phase, t.busData)) =
      some (.nSend 0, 0x00) := by decide +kernel

/-- V-F-4 and V-F-5: the oldest Command leaves once the gate is open, and not before. -/
theorem test_frame :
    (answer (step { parked .nWait with
        busData := 0x5A, defer := false, tail := 1, count := 1, qmem := Memory.writeSlot [] 0 payload })).map
      (fun t => (t.head, t.count)) = some (1, 0) ∧
    (answer (step { parked .nWait with
        busData := 0x5A, tail := 1, count := 1, qmem := Memory.writeSlot [] 0 payload })).map
      (fun t => (t.head, t.count)) = some (0, 1) := by decide +kernel

/-- With `DEFER_GATE_EFFECTIVE` false the same Command leaves although `defer` is set (rule R203). -/
theorem test_frame_no_gate :
    (answer (step { parked .nWait with
        busData := 0x5A, tail := 1, count := 1, qmem := Memory.writeSlot [] 0 payload
        params := { OpenParams.recommended with deferGateEffective := false } })).map
      (fun t => (t.defer, t.head, t.count)) = some (true, 1, 0) := by decide +kernel

/-- V-F-4: the 13 bytes of the Command are bytes 1 to 13 of the frame. -/
theorem test_frame_body : ((frameOf payload).toList.drop 1).take 13 = payload.toList := by
  rw [frameOf_toList]
  rfl

/-- V-F-7 and V-F-8: one clocked transfer advances and puts its byte on FPGA_OUT; without a clock the phase holds. -/
theorem test_send :
    (answer (step { parked (.nSend 7) with frameBuf := Vector.replicate 19 0x42, env := [[], [.fpgaClock 0x99]] })).map
      (fun t => (t.phase, t.fpgaOut, t.busData)) = some (.nSend 8, [0x42], 0x99) ∧
    (answer (step { parked (.nSend 7) with frameBuf := Vector.replicate 19 0x42 })).map
      (fun t => (t.phase, t.fpgaOut, t.xfer)) = some (.nSend 7, [], some 0x42) := by decide +kernel

/-- After the last frame byte the sequencer polls. -/
theorem test_send_last :
    (answer (step { parked (.nSend 18) with env := [[], [.fpgaClock 0x5A]] })).map (fun t => (t.phase, t.busData)) =
      some (.nPoll, 0x5A) := by decide +kernel

/-- V-M-1 and V-M-2: the ready input selects. -/
theorem test_checkReady :
    (answer (step { parked .bCheckReady with env := [[.fpgaReady .asserted]] })).map (·.phase) = some .bInit ∧
    (answer (step (parked .bCheckReady))).map (·.phase) = some .eEnter := by decide +kernel

/-- V-M-3: the run-time switch. -/
theorem test_enter : (answer (step (parked .eEnter))).map
    (fun t => (t.reportOnly, t.pinAccelInit, t.pinFpgaEnable, t.busRole, t.phase)) =
      some (true, .asserted, .asserted, .master, .pSampleRear) := by decide +kernel

/-- V-M-1, the end of bring-up. -/
theorem test_finish : (answer (step (parked .bFinish))).map
    (fun t => (t.pinAccelInit, t.pinFpgaEnable, t.busRole, t.phase, t.reportOnly)) =
      some (.deasserted, .asserted, .slave, .nWait, false) := by decide +kernel

/-- A sample outside MASTER is refused, by name (U19). -/
theorem test_sample_refused :
    (match step { parked .pSampleRear with busRole := .slave } with
      | .refused r => some r
      | _ => none) = some .sampleOutsideMaster := by decide +kernel

/-! ### Witnesses: the invariants -/

theorem emptyQueueInv {s : State} (hm : s.qmem = []) (hc : s.count = 0) (hh : s.head = 0) (ht : s.tail = 0) :
    QueueInv s where
  memWf := by
    rw [hm]
    exact ⟨List.Pairwise.nil, fun _ h => nomatch h⟩
  countLe := by omega
  tailEq := by
    apply Fin.ext
    simp [State.slotAt, hc, hh, ht]
  written := fun k hk => by omega

/-- The invariant of a run holds at the start of every phase, so the clauses of PhaseTransitions all have states. -/
theorem test_witness_inv (p : Phase) : Inv (parked p) where
  queue := emptyQueueInv rfl rfl rfl rfl
  flag := rfl
  role := by cases p <;> simp [parked, roleAt, Phase.roleOk]
  rear := .inl rfl
  front := .inl rfl
  selects := fun _ => ⟨rfl, rfl⟩
  initPin := fun l hl => by
    change p.initLevel.getD .deasserted = l
    rw [show p.initLevel = some l from hl]
    rfl
  enable := fun _ => by cases p <;> simp [parked, roleAt, Phase.mode]
  transfer := fun _ h => nomatch h

theorem test_witness_wholeFrames : WholeFrames (parked .nWait) ∧
    WholeFrames { parked (.nSend 2) with
      frameBuf := frameOf payload, fpgaOut := (frameOf payload).toList.take 2 } :=
  ⟨⟨⟨[], rfl⟩, fun _ h => nomatch h⟩, ⟨⟨[], rfl⟩, fun _ _ => ⟨payload, rfl⟩⟩⟩

theorem test_witness_wholeTransactions : WholeTransactions (parked .pSampleRear) :=
  ⟨⟨0, rfl⟩, ⟨0, rfl⟩⟩

/-- From the start of every phase a step answers a next state. -/
theorem test_witness_step (p : Phase) : ∃ t, step (parked p) = .next t := by
  cases p <;> exact ⟨_, rfl⟩

/-- QMEM with every byte written. -/
def fullMem (a n : Nat) : Memory := (List.range' a n).map fun k => (k, (0x00 : Byte))

theorem fullMem_read (n : Nat) : ∀ a k, a ≤ k → k < a + n → Memory.read (fullMem a n) k = some 0x00 := by
  induction n with
  | zero =>
    intro a k h1 h2
    omega
  | succ n ih =>
    intro a k h1 h2
    simp only [fullMem, List.range'_succ, List.map_cons, Memory.read]
    by_cases h : k = a
    · rw [if_pos h]
    · rw [if_neg h]
      exact ih (a + 1) k (by omega) (by omega)

/-- A queue one short of full, about to wrap (rule R27). -/
def almostFull : State := { parked .nPoll with head := 0, tail := 199, count := 199, qmem := fullMem 0 2600 }

theorem test_witness_queueInv : QueueInv almostFull ∧ almostFull.count = 199 where
  left :=
    { memWf := by
        refine ⟨?_, ?_⟩
        · simp only [almostFull, fullMem, List.pairwise_map]
          exact List.pairwise_lt_range'
        · intro c hc
          simp only [almostFull, fullMem, List.mem_map, List.mem_range'] at hc
          obtain ⟨k, ⟨i, hi, rfl⟩, rfl⟩ := hc
          simp only
          omega
      countLe := by decide
      tailEq := by decide
      written := fun k hk => by
        simp only [Memory.slotWritten, List.all_eq_true, List.mem_range]
        intro i hi
        have h1 := (almostFull.slotAt k).isLt
        change (Memory.read (fullMem 0 2600) (slotAddr (almostFull.slotAt k) + i)).isSome = true
        rw [fullMem_read 2600 0 _ (Nat.zero_le _) (by simp only [slotAddr]; omega)]
        rfl }
  right := rfl

/-- The same in any phase, under any parameters, with bytes in RX, a byte in BUSDATA and the gate open: the queue is not
touched by these. -/
theorem test_witness_queueInv_busy (ph : Phase) (p : OpenParams) (bytes : List Byte) (b : Byte) :
    QueueInv { almostFull with phase := ph, params := p, rx := bytes, busData := b, defer := false } :=
  have h := test_witness_queueInv.1
  ⟨h.memWf, h.countLe, h.tailEq, h.written⟩

/-! ### Witnesses: the instructions -/

theorem test_witness_decodeUndoesEncode : (Instr.reserved80_FF 0xFF).wellFormed = true ∧
    (Instr.reserved06_07 0x06).wellFormed = true := by decide

theorem test_witness_stepRunsDecoded : (fed .nPoll request).phase.polls = true ∧
    decode (fed .nPoll request).envTurn.rx = .ok (.steps, request.drop 1) ∧
    (parked .pPollA).phase.polls = true ∧ (parked .pPollA).envTurn.rx = [] := by decide +kernel

theorem test_witness_otherPhases : (parked .nWait).phase.polls = false ∧ (parked (.nSend 18)).phase.polls = false := by
  decide

theorem test_witness_reportOnly : (parked .eEnter).phase.mode = .reportOnly ∧
    (parked .pPollB).phase.mode = .reportOnly := by decide

theorem test_witness_oneWay : { parked .nPoll with defer := false }.defer = false ∧
    (parked .pPollA).reportOnly = true := by decide

theorem test_witness_environment : (parked .pPollA).busRole ≠ .slave ∧ (parked .nWait).xfer = none := by decide

/-- For ReadyAnswers, ExecQueueClearsDefer, SwitchEntersReportOnly, ReportOnlyDiscardsOthers and StepsChecksumMismatch: both
values of the mode flag. -/
theorem test_witness_modes : (parked .nPoll).reportOnly = false ∧ (parked .pPollA).reportOnly = true ∧
    (parked .nPoll).params.readyMagic = 0x40 ∧ Instr.steps ≠ .getAccels := by decide

theorem test_witness_execQueue_twice : ∃ t u, exec .execQueue (parked .nPoll) = .next t ∧
    exec .execQueue t = .next u := ⟨_, _, rfl, rfl⟩

theorem test_witness_defer_kept : ∃ t, exec .ready (parked .nPoll) = .next t ∧ t.defer = true := ⟨_, rfl, rfl⟩

theorem test_witness_reserved : [Instr.reserved05, .reserved06_07 0x06, .reserved08_0F 0x08, .reserved10_1F 0x10,
    .reserved20_3F 0x20, .reserved40_7F 0x40, .reserved80_FF 0x80].all (·.reserved) = true := by decide

/-- For ViolationConsumesOneByte: the least opcode of the first clause, and 0x04 and 0x02 in REPORT_ONLY. -/
theorem test_witness_violation : (fed .nPoll [0x05]).envTurn.rx = [0x05] ∧ 0x04 < (0x05 : Byte).toNat ∧
    (fed .pPollA [0x04]).reportOnly = true ∧ (0x04 : Byte) ≠ 0x03 ∧ (0x02 : Byte) ≠ 0x03 := by decide

/-- For StepsAccepted: the last free slot, the operand bytes there from the start. -/
theorem test_witness_stepsAccepted :
    let s : State := { fed .nPoll (request.drop 1) with tail := 199, count := 199 }
    s.reportOnly = false ∧ s.count ≠ 200 ∧ s.feeds 15 ∧
      (s.envTurns 15).rx.take 15 = payload.toList ++ [0x03, 0xAA] ∧
      joinBytes 0x03 0xAA = requestChecksum s.params.stepsCrcSpan payload := by
  unfold State.feeds
  decide +kernel

/-- For StepsAccepted: the operand bytes arriving one per turn, just in time. -/
theorem test_witness_stepsAccepted_arriving :
    let s : State := { parked .nPoll with env := (request.drop 1).map fun b => [.hostByte b] }
    s.reportOnly = false ∧ s.count ≠ 200 ∧ s.feeds 15 ∧
      (s.envTurns 15).rx.take 15 = payload.toList ++ [0x03, 0xAA] := by
  unfold State.feeds
  decide +kernel

theorem test_witness_stepsQueueFull :
    let s : State := { fed .nPoll (request.drop 1) with count := 200 }
    s.reportOnly = false ∧ s.count = 200 ∧ s.feeds 15 ∧
      (s.envTurns 15).rx.take 15 = payload.toList ++ [0x03, 0xAA] ∧
      joinBytes 0x03 0xAA = requestChecksum s.params.stepsCrcSpan payload := by
  unfold State.feeds
  decide +kernel

/-- For StepsChecksumMismatch: the low byte wrong (V-D-7), and the queue full (V-D-8). -/
theorem test_witness_stepsMismatch :
    let s : State := { fed .nPoll (payload.toList ++ [0x03, 0xAB]) with count := 200 }
    s.reportOnly = false ∧ s.feeds 15 ∧ (s.envTurns 15).rx.take 15 = payload.toList ++ [0x03, 0xAB] ∧
      joinBytes 0x03 0xAB ≠ requestChecksum s.params.stepsCrcSpan payload := by
  unfold State.feeds
  decide +kernel

/-- For StepsTimeout: none, and 14, of the 15 operand bytes (V-D-10, V-D-12). -/
theorem test_witness_stepsTimeout : (parked .nPoll).hostSilent ∧ (parked .nPoll).rx.length < 15 ∧
    (fed .nPoll (request.drop 2)).hostSilent ∧ (fed .nPoll (request.drop 2)).rx.length = 14 := by
  unfold State.hostSilent
  decide +kernel

/-- For AssembledStepsAccepted, with QueueInv from `test_witness_queueInv_busy`: the last free slot, each span. -/
theorem test_witness_assembled :
    almostFull.count < 200 ∧ almostFull.reportOnly = false ∧
    almostFull.params.stepsCrcSpan = .opcodeAndPayload ∧
    (0x01 :: request.drop 1 = (HostLine.steps payload).assemble .opcodeAndPayload ++ []) ∧
    (0x01 :: (payload.toList ++ [0xF9, 0xAD, 0x00]) = (HostLine.steps payload).assemble .payloadOnly ++ [0x00]) := by
  decide +kernel

/-- For OnlyStepsStoresAtTail, InstructionFrame and ResponsesAreChecksummed: every instruction completes here. -/
theorem test_witness_exec : (∃ t, exec .steps (fed .nPoll (request.drop 1)) = .next t ∧ t.count = 1) ∧
    ∃ t, exec .getAccels (parked .nPoll) = .next t := by
  refine ⟨?_, ⟨_, rfl⟩⟩
  have h : (answer (exec .steps (fed .nPoll (request.drop 1)))).map (·.count) = some 1 := by decide +kernel
  cases e : exec .steps (fed .nPoll (request.drop 1)) with
  | next t =>
    rw [e] at h
    exact ⟨t, rfl, by simpa [answer] using h⟩
  | fault f =>
    rw [e] at h
    exact nomatch h
  | refused r =>
    rw [e] at h
    exact nomatch h

/-! ### Witnesses: the units -/

theorem test_witness_timedRead : 13 ≤ (fed .nPoll payload.toList).rx.length := by decide

theorem test_witness_singleErrors : (0x0D : Byte) ≠ 0x0C ∧ (0x0000 : Half) ≠ 0x0001 := by decide

/-- For QueueAppend and QueuePop: the full and the empty queue; the other clauses have `test_witness_queueInv`. -/
theorem test_witness_queue : { parked .nPoll with count := 200 }.count = 200 ∧ (parked .nPoll).count = 0 ∧
    almostFull.count ≠ 200 ∧ almostFull.count ≠ 0 := by decide

/-- For QueueRefinesFifo: a queue that holds one Command. -/
theorem test_witness_fifo : QueueInv (State.storeTail payload (parked .nPoll)) ∧
    (State.storeTail payload (parked .nPoll)).queued = [payload].map some := by
  have h := QueueInv.storeTail (s := parked .nPoll) (emptyQueueInv rfl rfl rfl rfl) (by decide) payload
  exact ⟨h.1, h.2⟩

theorem test_witness_wait : (parked .nWait).phase = .nWait ∧ (parked .nWait).envTurn.busData ≠ 0x5A ∧
    { parked .nWait with busData := 0x5B }.envTurn.busData ≠ 0x5A := by decide

/-- For SentinelBuildsFrame: the filler because of the gate, the filler because the queue is empty, and a Command
(with QueueInv from `test_witness_queueInv_busy`). -/
theorem test_witness_sentinel :
    { parked .nWait with busData := 0x5A }.envTurn.busData = 0x5A ∧ (parked .nWait).defer = true ∧
    (parked .nWait).params.deferGateEffective = true ∧
    { almostFull with phase := .nWait, rx := [], busData := 0x5A, defer := false }.envTurn.busData = 0x5A ∧
    (parked .nWait).count = 0 ∧ almostFull.count ≠ 0 := by decide

theorem test_witness_send : (parked (.nSend 0)).phase = .nSend 0 ∧ (parked (.nSend 18)).phase = .nSend 18 ∧
    (parked (.nSend 7)).fpgaSilent := by
  unfold State.fpgaSilent
  decide

/-- For SendHoldsOrAdvances and StalledFrameHolds: a transfer in progress, in a state that meets the invariant. -/
theorem test_witness_send_progress : Inv { parked (.nSend 18) with xfer := some 0x00 } where
  queue := emptyQueueInv rfl rfl rfl rfl
  flag := rfl
  role := rfl
  rear := .inl rfl
  front := .inl rfl
  selects := fun _ => ⟨rfl, rfl⟩
  initPin := fun l hl => by
    cases hl
    rfl
  enable := fun _ => ⟨fun _ => rfl, fun h => nomatch h⟩
  transfer := fun b hb => by
    cases hb
    exact ⟨rfl, 18, rfl, by decide⟩

theorem test_witness_wholeFrame :
    let replies : Vector Byte 19 := Vector.replicate 19 0x5A
    let s : State := { parked (.nSend 0) with
      env := (replies.toList.map fun b => [[], [EnvMove.fpgaClock b]]).flatten ++ [[.hostByte 0x00]] }
    s.phase = .nSend 0 ∧ s.busRole = .slave ∧ s.xfer = none := by decide

theorem test_witness_silentFpga : (parked .nWait).phase = .nWait ∧ (parked .nWait).busData ≠ 0x5A ∧
    { parked .nWait with env := [[.hostByte 0x00, .fpgaReady .asserted]] }.fpgaSilent := by
  unfold State.fpgaSilent
  decide

/-- For SampleAverages, SampleRange, ReportLoopSamples and BaselineSamplesBoth, both channels. -/
theorem test_witness_sample : (parked .pSampleRear).busRole = .master ∧
    (parked .pSampleRear).select Channel.rear.other = .deasserted ∧ (parked .pSampleFront).busRole = .master ∧
    (parked .pSampleFront).select Channel.front.other = .deasserted ∧ (parked .bBaseline).busRole = .master ∧
    (parked .bBaseline).pinCsRear = .deasserted ∧ (parked .bBaseline).pinCsFront = .deasserted := by decide

/-- For the phases of the mode state machine; `B_CHECK_READY` with each level of the ready input. -/
theorem test_witness_fsm : (parked .bIdlePins).phase = .bIdlePins ∧ (parked .bInit).phase = .bInit ∧
    (parked .bFinish).phase = .bFinish ∧ (parked .eEnter).phase = .eEnter ∧
    (parked .bCheckReady).phase = .bCheckReady ∧ (parked .bCheckReady).envTurn.pinFpgaReady = .deasserted ∧
    { parked .bCheckReady with pinFpgaReady := .asserted }.envTurn.pinFpgaReady = .asserted := by decide

end Sys2Proof.Tests
end

section
/-! The Integrity Layer (spec/41_crc.md): the model's round, byte step and fold in the spec's own words (rules R140 to
R145). -/

namespace Sys2Proof.Machine

/-- A round tests the top bit by the accumulator's value and shifts by doubling it (rule R141). -/
theorem crcRound_eq_double (a : Half) :
    crcRound a = if 0x8000 ≤ a.toNat then (a + a) ^^^ 0x1021 else a + a := by
  have top : a.getLsbD 15 = decide (0x8000 ≤ a.toNat) := a.msb_eq_decide
  have shift : a <<< 1 = a + a := by
    rw [BitVec.shiftLeft_eq_mul_twoPow, show BitVec.twoPow 16 1 = 2#16 from rfl, BitVec.mul_two]
  simp only [crcRound, top, shift, Params.crcPoly, decide_eq_true_eq]

theorem crcRounds_eq_iterate (k : Nat) (a : Half) : crcRounds k a = crcRound^[k] a := by
  induction k generalizing a with
  | zero => rfl
  | succ k ih => exact ih (crcRound a)

/-- A byte in bits 15 to 8 is the high byte of a 16-bit value (rule R142). -/
theorem setWidth_shiftLeft_eq_joinBytes (b : Byte) : b.setWidth 16 <<< 8 = joinBytes b 0x00 := by
  apply BitVec.eq_of_getLsbD_eq
  intro i hi
  rw [joinBytes, BitVec.getLsbD_append, BitVec.getLsbD_shiftLeft, BitVec.getLsbD_setWidth]
  by_cases h : i < 8
  · simp [h]
  · have : i - 8 < 16 := by omega
    simp [h, hi, this]

/-- The byte step: the byte into the high byte, then eight rounds (rule R142). -/
theorem crcByte_eq_iterate (acc : Half) (b : Byte) : crcByte acc b = crcRound^[8] (acc ^^^ joinBytes b 0x00) := by
  rw [crcByte, crcRounds_eq_iterate, setWidth_shiftLeft_eq_joinBytes]

/-- One more byte of a fold, in either mode (rule R141). -/
theorem State.crcFold_concat (bytes : List Byte) (b : Byte) (carry : Bool) (s : State) :
    s.crcFold (bytes ++ [b]) carry = { s with crc := crcByte (s.crcFold bytes carry).crc b } := by
  rw [State.crcFold_eq, State.crcFold_eq, crcFrom_append, crcFrom_cons, crcFrom_nil]

/-- A carry fold goes on where a fold, in either mode, has ended (rule R145). -/
theorem State.crcFold_append (a b : List Byte) (carry : Bool) (s : State) :
    (s.crcFold a carry).crcFold b true = s.crcFold (a ++ b) carry := by
  simp only [State.crcFold_eq, crcFrom_append, if_true]

/-- A fresh fold leaves the checksum of its bytes (rule R143). -/
theorem State.crcFold_fresh_crc (bytes : List Byte) (s : State) : (s.crcFold bytes false).crc = crc16 bytes := rfl

/-- Settles O35: the reseed value of the model is the spec's. -/
theorem crcResetReseeds : Obligations.CrcResetReseeds := fun _ => rfl

/-- Settles O36: an empty fold is the reseed alone, and each further byte is one byte step, eight of the spec's rounds. -/
theorem crcFoldFollowsRounds : Obligations.CrcFoldFollowsRounds := by
  refine ⟨fun s => ⟨rfl, rfl⟩, fun s bytes b carry => ?_, fun s => ?_⟩
  · rw [State.crcFold_concat, crcByte_eq_iterate, funext crcRound_eq_double]
  · rw [State.crcFold_append, State.crcFold_fresh_crc, State.crcFold_fresh_crc]
    decide

/-- Settles O37: a fold is a left fold over the bytes, so it composes over a concatenation. -/
theorem crcComposition : Obligations.CrcComposition := by
  refine ⟨fun s a b => s.crcFold_append a b false, fun s a b => ?_, by decide +kernel⟩
  rw [State.crcFold_append, State.crcFold_fresh_crc]

end Sys2Proof.Machine
end

section
/-! STEPS to a host that has fallen silent (rules R163, R171, R271): a timed read then takes what RX holds, as far as it
needs it. -/

namespace Sys2Proof.Machine

/-- A silent host appends nothing, however long the block waits. -/
theorem State.hostSilent.hostIn_eq_nil {s : State} (h : s.hostSilent) (k : Nat) : s.hostIn k = [] :=
  List.flatMap_eq_nil_iff.mpr fun ms hms => h ms (List.mem_of_mem_take hms)

/-- A host that is silent stays silent during a read. -/
theorem State.hostSilent.afterRead {s : State} (h : s.hostSilent) (m : Nat) (rx : List Byte) (i t : Nat) :
    (s.afterRead m rx i t).hostSilent := by
  intro ms hms
  rw [State.afterRead, State.envTurns_env] at hms
  exact h ms (List.mem_of_mem_drop hms)

/-- A timed read from a silent host takes the first `n` bytes of RX, or all there are (rules R163, R164). -/
theorem State.hostSilent.timedRead_eq {s : State} (h : s.hostSilent) (n : Nat) :
    ∃ m i t : Nat, timedRead n s = (s.afterRead m (s.rx.drop n) i t, s.rx.take n) := by
  obtain ⟨m, r, rx, i, t, -, hread, htaken, hend⟩ := timedReadLoop_cases Config.interbyteLimit Config.transactionLimit
    (Config.transactionLimit + n + 1) n s.startCounters [] (by simp) (by simp [State.startCounters]; omega)
  rw [State.startCounters_envTurns_rx, State.envTurns_rx, h.hostIn_eq_nil, List.append_nil] at htaken
  refine ⟨m, i, t, ?_⟩
  rw [timedRead, timedReadWith, hread, State.startCounters_eq, State.afterRead_afterRead, Nat.zero_add, ← htaken]
  rw [List.nil_append] at hend ⊢
  obtain hfull | ⟨hshort, rfl, -⟩ := hend
  · rw [List.take_left' hfull, List.drop_left' hfull]
  · rw [List.append_nil, List.take_of_length_le hshort.le, List.drop_of_length_le hshort.le]

/-- `CrcVerify` whose timed read is cut short: nothing is stored and the fold is skipped (rule R144, decision D18). -/
theorem State.crcVerify_short {s t : State} {bytes got : List Byte} (h : timedRead 2 s = (t, got))
    (hgot : got.length < 2) : s.crcVerify bytes = (t, .short) := by
  rw [State.crcVerify, h]
  match got with
  | [] | [_] => rfl

/-- `Steps()` whose payload read is cut short (rules R171, R271). -/
theorem stepsWith_payload_short {s t : State} {got : List Byte} (span : CrcSpan) (h : timedRead 13 s = (t, got))
    (hgot : got.length < 13) : stepsWith span s = .next t.returnFromPoll := by
  rw [stepsWith, h]
  exact if_pos hgot

/-- `Steps()` whose payload has arrived but whose checksum read is cut short (rules R171, R271). -/
theorem stepsWith_checksum_short {s t u : State} {payload got : List Byte} (span : CrcSpan)
    (h : timedRead 13 s = (t, payload)) (hpayload : payload.length = 13)
    (h' : timedRead 2 (t.storePayload payload) = (u, got)) (hgot : got.length < 2) :
    stepsWith span s = .next u.returnFromPoll := by
  rw [stepsWith, h]
  refine (if_neg (by omega)).trans ?_
  rw [stepsVerify, State.crcVerify_short h' hgot]
  rfl

/-- A timed read from a silent host in the course of STEPS keeps the accumulator and the scratch buffer (rule R163). -/
theorem State.hostSilent.timedRead_seen {s : State} (h : s.hostSilent) (n m : Nat) (rx : List Byte) (i t : Nat) (c : Half)
    (b : Vector Byte 16) :
    ∃ m' i' t' : Nat, timedRead n (s.seen m rx i t c b) = (s.seen m' (rx.drop n) i' t' c b, rx.take n) := by
  obtain ⟨k, i', t', hread⟩ := (h.afterRead m rx i t).timedRead_eq n
  refine ⟨m + k, i', t', ?_⟩
  rw [State.seen_eq, timedRead_withScratch, hread, State.afterRead_afterRead, ← State.seen_eq]
  rfl

/-- STEPS to a silent host with too few operand bytes in RX consumes them all, in one timed read or in two, and writes the
scratch buffer and the counters only (rules R171, R271). -/
theorem stepsWith_hostSilent (span : CrcSpan) {s : State} (h : s.hostSilent) (hlen : s.rx.length < 15) :
    ∃ (m i t : Nat) (b : Vector Byte 16), stepsWith span s = .next (s.seen m [] i t s.crc b).returnFromPoll := by
  obtain ⟨m, i, t, h13⟩ : ∃ m i t : Nat,
      timedRead 13 s = (s.seen m (s.rx.drop 13) i t s.crc s.buf, s.rx.take 13) :=
    h.timedRead_seen 13 0 s.rx s.interbyte s.transaction s.crc s.buf
  by_cases hpayload : s.rx.length < 13
  · refine ⟨m, i, t, s.buf, ?_⟩
    rw [stepsWith_payload_short span h13 (by simp [hpayload]), List.drop_of_length_le hpayload.le]
  · obtain ⟨m', i', t', h2⟩ := h.timedRead_seen 2 m (s.rx.drop 13) i t s.crc (putBytes s.buf 1 (s.rx.take 13))
    refine ⟨m', i', t', putBytes s.buf 1 (s.rx.take 13), ?_⟩
    rw [stepsWith_checksum_short span h13 (by simp; omega) h2 (by simp; omega), List.drop_drop,
      List.drop_of_length_le hlen.le]

/-- Settles O26: the opcode is let through, and both ways of running out of operand bytes end in a silent return. -/
theorem stepsTimeout : Obligations.StepsTimeout := by
  intro s hmode hsilent hlen
  obtain ⟨m, i, t, b, h⟩ := stepsWith_hostSilent s.params.stepsCrcSpan (s := s.storeOpcode 0x01) hsilent hlen
  refine ⟨m, b, i, t, ?_⟩
  rw [exec, execSteps_eq hmode, h, State.seen_storeOpcode, State.seen_update, State.envTurns_eq m s]
  rfl

end Sys2Proof.Machine
end

section
/-! EXEC_QUEUE and the defer flag (rules R161, R173, R203): who writes the flag, and where the frame builder reads it. -/

namespace Sys2Proof.Machine

/-- EXEC_QUEUE outside REPORT_ONLY (rule R173). -/
theorem exec_execQueue_of_normal {s : State} (hr : s.reportOnly = false) :
    exec .execQueue s =
      .next { s with defer := false, buf := s.buf.set 0 0x02, phase := s.phase.afterPoll } := by
  rw [exec, execExecQueue, accept_of_passes (filtered_of_normal hr (by decide)), State.storeOpcode_eq]
  rfl

/-- A second EXEC_QUEUE changes the phase at most: the mode is that of the first, and what it writes stands there. -/
theorem exec_execQueue_twice {s t u : State} (h : exec .execQueue s = .next t) (h' : exec .execQueue t = .next u) :
    u = { t with phase := u.phase } := by
  cases hr : s.reportOnly with
  | true =>
    have hi : Instr.execQueue ≠ .getAccels := by decide
    obtain rfl := Host.Outcome.next.inj (h.symm.trans (exec_reportOnly hr hi))
    obtain rfl := Host.Outcome.next.inj (h'.symm.trans (exec_reportOnly (s := s.returnFromPoll) hr hi))
    rfl
  | false =>
    obtain rfl := Host.Outcome.next.inj (h.symm.trans (exec_execQueue_of_normal hr))
    obtain rfl := Host.Outcome.next.inj (h'.symm.trans (exec_execQueue_of_normal hr))
    rw [Vector.set_set]

/-- An instruction keeps the defer flag, unless it is EXEC_QUEUE and clears it (rules R32, R173). -/
theorem InstrOutcome.defer {i : Instr} {s t : State} (h : InstrOutcome i s t) :
    t.defer = s.defer ∨ (i = .execQueue ∧ t.defer = false) := by
  cases h with
  | cleared hi _ ht => exact .inr ⟨hi, by rw [ht]⟩
  | discarded ht | answered _ _ ht | switched _ _ ht => exact .inl (by simp [ht])
  | reported _ ht => exact .inl (by simp [ht, State.sendResponse_eq])
  | stepsRaised _ _ _ _ _ _ _ _ ht | stepsFull _ _ _ _ _ _ _ _ ht | stepsStored _ _ _ _ _ _ _ _ ht =>
    exact .inl (by simp [ht, State.seen_update])

/-- No instruction sets the defer flag (rule R32). -/
theorem exec_never_sets_defer {i : Instr} {s t : State} (h : exec i s = .next t) (ht : t.defer = true) :
    s.defer = true := by
  obtain hkept | ⟨-, hcleared⟩ := (exec_outcome h).defer
  · exact hkept ▸ ht
  · exact absurd ht (by simp [hcleared])

/-- A slot read neither reads nor writes the defer flag. -/
theorem State.memReadSlot_withDefer (slot : Fin 200) (s : State) (d : Bool) :
    State.memReadSlot slot { s with defer := d } =
      ({ (s.memReadSlot slot).1 with defer := d }, (s.memReadSlot slot).2) := by
  unfold State.memReadSlot
  cases s.qmem.readSlot slot <;> rfl

/-- A pop neither reads nor writes the defer flag (rule R122). -/
theorem State.queueTryPop_withDefer (s : State) (d : Bool) :
    State.queueTryPop { s with defer := d } = ({ s.queueTryPop.1 with defer := d }, s.queueTryPop.2) := by
  by_cases hc : s.count = 0
  · rw [State.queueTryPop_empty hc, State.queueTryPop_empty (s := { s with defer := d }) hc]
  · simp only [State.queueTryPop, hc, if_false, State.memReadSlot_withDefer]
    rfl

/-- A gate that does not hold the queue back builds the frame that no gate builds (rule R203). -/
theorem buildFrameWith_of_not_heldBack {gate : Bool} {s : State} (h : s.heldBack gate = false) :
    buildFrameWith gate s = buildFrameWith false s := by
  rw [buildFrameWith, buildFrameWith, h]
  rfl

/-- Without the gate the frame builder neither reads nor writes the defer flag (rule R203). -/
theorem buildFrameWith_false_withDefer (s : State) (d : Bool) :
    buildFrameWith false { s with defer := d } =
      ({ (buildFrameWith false s).1 with defer := d }, (buildFrameWith false s).2) := by
  by_cases hc : s.count = 0
  · rw [buildFrameWith_filler (.inr hc), buildFrameWith_filler (s := { s with defer := d }) (.inr hc)]
  · obtain ⟨cmd, e, hpop, -⟩ := State.queueTryPop_cases hc
    simp [buildFrameWith, State.heldBack, State.queueIsEmpty, hc, State.queueTryPop_withDefer, hpop]

/-- Settles O17: the two modes of EXEC_QUEUE, then the writers of the defer flag and its one reader. -/
theorem execQueueClearsDefer : Obligations.ExecQueueClearsDefer :=
  ⟨fun _ => exec_execQueue_of_normal, fun _ hr => exec_reportOnly hr (by decide), fun _ _ _ => exec_execQueue_twice,
    fun _ _ _ => exec_never_sets_defer, fun s hd => buildFrameWith_of_not_heldBack (by simp [State.heldBack, hd]),
    buildFrameWith_false_withDefer⟩

end Sys2Proof.Machine
end

section
/-! The opcode map (rules R90, R97): the decoder and the encoder are inverse to each other, so each byte has one row. -/

namespace Sys2Proof

/-- A well-formed instruction is the one its opcode byte decodes to (rule R97). -/
theorem decodeOpcode_encodeOpcode {i : Instr} (h : i.wellFormed = true) : decodeOpcode (encodeOpcode i) = i := by
  cases i with
  | ready | steps | execQueue | getAccels | switchToAccelReportMode | reserved05 => rfl
  | reserved06_07 b | reserved08_0F b | reserved10_1F b | reserved20_3F b | reserved40_7F b | reserved80_FF b =>
    revert b
    decide +kernel

/-- The decoder answers a term of its own row, for every byte (rule R97). -/
theorem decodeOpcode_wellFormed (b : Byte) : (decodeOpcode b).wellFormed = true := by
  revert b
  decide +kernel

theorem encodeOpcode_decodeOpcode (b : Byte) : encodeOpcode (decodeOpcode b) = b := by
  revert b
  decide +kernel

/-- Settles O1: the decoder reads the one opcode byte and leaves the rest. -/
theorem decodeUndoesEncode : Obligations.DecodeUndoesEncode := by
  intro i rest hwf
  have hrow := decodeOpcode_encodeOpcode hwf
  simp only [encode, List.singleton_append, decode, hrow]

/-- Settles O2: the two directions are the two ways in which decoder and encoder are inverse. -/
theorem opcodeMapPartitions : Obligations.OpcodeMapPartitions := by
  intro b i
  constructor
  · rintro ⟨hwf, rfl⟩
    exact (decodeOpcode_encodeOpcode hwf).symm
  · rintro rfl
    exact ⟨decodeOpcode_wellFormed b, encodeOpcode_decodeOpcode b⟩

/-- Settles O3, by evaluating the decoder on each of these words. -/
theorem specWordsDecode : Obligations.SpecWordsDecode := by
  unfold Obligations.SpecWordsDecode
  decide +kernel

end Sys2Proof
end

section
/-! The Command Queue (rules R120 to R126): the ring buffer against the FIFO. -/

namespace Sys2Proof.Machine

theorem State.length_queued (s : State) : s.queued.length = s.count := by
  simp [State.queued]

/-- The index after `tail`, written out (rule R121). -/
theorem State.storeTail_eq (cmd : Command) (s : State) :
    s.storeTail cmd = { s with
      qmem := s.qmem.writeSlot s.tail cmd
      tail := ⟨(s.tail.val + 1) % 200, Nat.mod_lt _ (Nat.succ_pos 199)⟩
      count := s.count + 1 } := rfl

/-- The index after `head`, written out (rule R122). -/
theorem State.dropHead_eq (s : State) :
    s.dropHead = { s with
      head := ⟨(s.head.val + 1) % 200, Nat.mod_lt _ (Nat.succ_pos 199)⟩
      count := s.count - 1 } := rfl

/-- The ring buffer holds exactly the Commands of a FIFO, in its order (rules R27, R126). -/
structure HoldsFifo (s : State) (l : List Command) : Prop where
  inv : QueueInv s
  queued : s.queued = l.map some

theorem HoldsFifo.count_eq {s : State} {l : List Command} (h : HoldsFifo s l) : s.count = l.length := by
  rw [← s.length_queued, h.queued, List.length_map]

/-- An append with room (rule R121). -/
theorem HoldsFifo.append {s : State} {l : List Command} (h : HoldsFifo s l) (hroom : l.length < 200) (cmd : Command) :
    s.queueTryAppend cmd = (s.storeTail cmd, true) ∧ HoldsFifo (s.storeTail cmd) (l ++ [cmd]) := by
  have hc : s.count ≠ 200 := by
    rw [h.count_eq]
    omega
  obtain ⟨hinv, hq⟩ := h.inv.storeTail hc cmd
  exact ⟨State.queueTryAppend_room hc cmd, hinv, by simp [hq, h.queued]⟩

/-- An append to a full queue (rule R121): the FIFO is then at its capacity, which it cannot exceed. -/
theorem HoldsFifo.append_full {s : State} {l : List Command} (h : HoldsFifo s l) (hfull : ¬ l.length < 200)
    (cmd : Command) : s.queueTryAppend cmd = (s, false) := by
  have hle := h.inv.countLe
  rw [h.count_eq] at hle
  exact State.queueTryAppend_full (by rw [h.count_eq]; omega) cmd

/-- A pop of a queue that holds nothing (rule R122). -/
theorem HoldsFifo.pop_nil {s : State} (h : HoldsFifo s []) : s.queueTryPop = (s, none) :=
  State.queueTryPop_empty h.count_eq

/-- A pop answers the FIFO's front and leaves its rest (rule R122). -/
theorem HoldsFifo.pop_cons {s : State} {c : Command} {l : List Command} (h : HoldsFifo s (c :: l)) :
    s.queueTryPop = (s.dropHead, some c) ∧ HoldsFifo s.dropHead l := by
  have hc : s.count ≠ 0 := by simp [h.count_eq]
  obtain ⟨cmd, hslot, hinv, hq⟩ := h.inv.dropHead hc
  have heq : some cmd :: s.dropHead.queued = some c :: l.map some := hq.symm.trans h.queued
  obtain ⟨hcmd, hrest⟩ := List.cons.inj heq
  exact ⟨State.queueTryPop_some hc (hslot.trans hcmd), hinv, hrest⟩

/-- The simulation, by induction on the operations: each one keeps the relation and answers alike (rule R120). -/
theorem HoldsFifo.runQueue (ops : List QueueOp) : ∀ {s : State} {l : List Command}, HoldsFifo s l →
    (runQueue ops s).2 = (runFifo ops l).2 ∧ HoldsFifo (runQueue ops s).1 (runFifo ops l).1 := by
  induction ops with
  | nil => exact fun h => ⟨rfl, h⟩
  | cons op ops ih =>
    intro s l h
    cases op with
    | append cmd =>
      by_cases hroom : l.length < 200
      · obtain ⟨hstep, h'⟩ := h.append hroom cmd
        simpa [Machine.runQueue, runFifo, hstep, hroom] using ih h'
      · simpa [Machine.runQueue, runFifo, h.append_full hroom cmd, hroom] using ih h
    | pop =>
      cases l with
      | nil => simpa [Machine.runQueue, runFifo, h.pop_nil] using ih h
      | cons c l =>
        obtain ⟨hstep, h'⟩ := h.pop_cons
        simpa [Machine.runQueue, runFifo, hstep] using ih h'

/-- Settles O42: the ring buffer simulates the FIFO, one operation at a time. -/
theorem queueRefinesFifo : Obligations.QueueRefinesFifo := by
  intro ops s l hinv hq
  obtain ⟨hanswers, hinv', hq'⟩ := HoldsFifo.runQueue ops (s := s) (l := l) ⟨hinv, hq⟩
  exact ⟨(runQueue ops s).1, Prod.ext rfl hanswers, hq', hinv'⟩

/-- Settles O40: the two branches of the append. -/
theorem queueAppend : Obligations.QueueAppend := by
  refine fun s cmd => ⟨fun hfull => State.queueTryAppend_full hfull cmd, fun hroom hinv => ?_⟩
  obtain ⟨hinv', hq⟩ := hinv.storeTail hroom cmd
  rw [State.queueTryAppend_room hroom]
  exact ⟨rfl, hq, hinv', s.storeTail_eq cmd⟩

/-- Settles O41: a pop reads slot `head` and drops it, whatever the slot holds; under the invariants it holds a Command. -/
theorem queuePop : Obligations.QueuePop := by
  refine fun s => ⟨decide_eq_true_iff, State.queueTryPop_empty, fun h => ?_, fun h hinv => ?_⟩
  · obtain ⟨cmd, d, hpop, hbytes⟩ := State.queueTryPop_cases h
    exact ⟨cmd, d, hpop, hbytes⟩
  · obtain ⟨cmd, hslot, hinv', hq⟩ := hinv.dropHead h
    exact ⟨cmd, s.dropHead, State.queueTryPop_some h hslot, hq, hinv', s.dropHead_eq⟩

end Sys2Proof.Machine
end

section
/-! The phases of the Power-On / Mode State Machine, one equation each (rules R241 to R247), a turn of the environment (rule
R68) and the poll (rule R160). -/

namespace Sys2Proof.Machine

/-- Settles O15: outside `SLAVE` role, and with no slave transfer in progress, the FPGA's moves on the bus have no effect. -/
theorem environmentLiberties : Obligations.EnvironmentLiberties := by
  refine fun s => ⟨rfl, fun hr => ?_, fun hx => State.busAfterTurn_of_no_xfer hx⟩
  have hbus := State.busAfterTurn_of_not_slave hr
  exact ⟨congrArg BusView.data hbus, congrArg BusView.done hbus, congrArg BusView.out hbus⟩

/-- Settles O54: four pins, one turn of the environment before each. -/
theorem idlePinsDeasserted : Obligations.IdlePinsDeasserted := by
  intro s hp
  rw [step_bIdlePins hp, idlePins_eq]
  rfl

/-- Settles O55: the two levels of the ready input. -/
theorem readyPinSelectsMode : Obligations.ReadyPinSelectsMode := by
  intro s hp
  rw [step_bCheckReady hp, checkReady_eq]
  exact ⟨fun h => by rw [if_pos h], fun h => by rw [if_neg (by rw [h]; decide)]⟩

/-- Settles O56, by the steps shared with the report-only entry. -/
theorem initTakesMasterRole : Obligations.InitTakesMasterRole := by
  intro s hp
  rw [step_bInit hp, initAccel, takeMasterRole_eq]

/-- Settles O57: three turns precede the change of role, one follows it. -/
theorem finishEntersNormal : Obligations.FinishEntersNormal := by
  intro s hp
  rw [step_bFinish hp, finishBringup_eq]

/-- The environment does not see the mode flag. -/
theorem State.envTurns_setReportOnly (k : Nat) (s : State) :
    s.setReportOnly.envTurns k = (s.envTurns k).setReportOnly := by
  induction k generalizing s with
  | zero => rfl
  | succ k ih => exact ih s.envTurn

/-- Settles O58: the flag is set before the turns that the shared steps take. -/
theorem enterSetsReportOnly : Obligations.EnterSetsReportOnly := by
  intro s hp
  rw [step_eEnter hp, enterReportOnly, takeMasterRole_eq, State.envTurns_setReportOnly]
  rfl

/-- A poll with a byte in RX runs the instruction it decodes to (rule R160). -/
theorem step_polls_cons {s : State} {b : Byte} {rest : List Byte} (hp : s.phase.polls = true)
    (hrx : s.envTurn.rx = b :: rest) : step s = exec (decodeOpcode b) { s.envTurn with rx := rest } := by
  rw [step_polls hp, poll, State.rxTry_cons hrx]

/-- A poll with RX empty returns at once (rule R160). -/
theorem step_polls_nil {s : State} (hp : s.phase.polls = true) (hrx : s.envTurn.rx = []) :
    step s = .next s.envTurn.returnFromPoll := by
  rw [step_polls hp, poll, State.rxTry_empty hrx]

/-- Settles O10: RX has a byte, which decodes, or it is empty. -/
theorem stepRunsDecoded : Obligations.StepRunsDecoded := by
  refine ⟨fun s i rest hp hd => ?_, fun s b rest hrx => ?_, fun s hp hrx => step_polls_nil hp hrx⟩
  · cases hrx : s.envTurn.rx with
    | nil => simp [hrx, decode] at hd
    | cons b rest' =>
      obtain ⟨rfl, rfl⟩ : decodeOpcode b = i ∧ rest' = rest := by simpa [hrx, decode] using hd
      exact ⟨decodeOpcode_wellFormed b, step_polls_cons hp hrx⟩
  · rw [State.envTurn_rx, hrx, List.cons_append, decode]

end Sys2Proof.Machine
end

section
/-! The instructions: the exact next state of those that read nothing, and what all twelve keep and send (rules R161 to
R176). -/

namespace Sys2Proof.Machine

/-- A filtered instruction is discarded, and so is every reserved one (rules R98, R161). -/
theorem exec_of_filtered {i : Instr} {s : State} (h : filtered s.reportOnly (encodeOpcode i) = true) :
    exec i s = .next s.returnFromPoll := by
  cases i with
  | ready => exact accept_of_filtered h _
  | steps => exact accept_of_filtered h _
  | execQueue => rw [exec, execExecQueue]; exact accept_of_filtered h _
  | getAccels => rw [exec, execGetAccels]; exact accept_of_filtered h _
  | switchToAccelReportMode => rw [exec, execSwitchToAccelReportMode]; exact accept_of_filtered h _
  | reserved05 | reserved06_07 | reserved08_0F | reserved10_1F | reserved20_3F | reserved40_7F | reserved80_FF => rfl

/-- A response (rule R165), the opcode in the scratch buffer, and the return from `poll()`. -/
theorem State.respond_eq (opcode : Byte) (payload : List Byte) (s : State) :
    ((s.storeOpcode opcode).sendResponse opcode payload).returnFromPoll = { s.envTurn with
      crc := crc16 (opcode :: payload)
      buf := s.buf.set 0 opcode
      tx := s.tx ++ (payload ++ [hi8 (crc16 (opcode :: payload)), lo8 (crc16 (opcode :: payload))])
      phase := s.phase.afterPoll } := by
  rw [State.sendResponse_eq, State.storeOpcode_eq]
  generalize crc16 (opcode :: payload) = c
  rfl

/-- READY outside REPORT_ONLY (rule R170). -/
theorem exec_ready_of_normal {s : State} (hr : s.reportOnly = false) :
    exec .ready s = .next { s.envTurn with
      crc := crc16 [0x00, s.params.readyMagic]
      buf := s.buf.set 0 0x00
      tx := s.tx ++
        [s.params.readyMagic, hi8 (crc16 [0x00, s.params.readyMagic]), lo8 (crc16 [0x00, s.params.readyMagic])]
      phase := s.phase.afterPoll } := by
  rw [exec, execReady, accept_of_passes (filtered_of_normal hr (by decide)), readyWith, finish, State.respond_eq]
  rfl

/-- Settles O16: the response for any magic, then its checksum for 0x40, then the discard. -/
theorem readyAnswers : Obligations.ReadyAnswers := by
  refine ⟨fun s => exec_ready_of_normal, fun s hr hmagic => ?_, fun s hr => exec_reportOnly hr (by decide)⟩
  have hcrc : crc16 [0x00, 0x40] = 0x55CB := by decide +kernel
  rw [exec_ready_of_normal hr, hmagic, hcrc]
  rfl

/-- Settles O18: GET_ACCELS passes the filter in every mode. -/
theorem getAccelsAnswers : Obligations.GetAccelsAnswers := by
  intro s
  rw [exec, execGetAccels, accept_of_passes (filtered_getAccels _), finish, State.respond_eq]
  rfl

/-- Settles O19, by the two branches of the filter. -/
theorem switchEntersReportOnly : Obligations.SwitchEntersReportOnly := by
  refine ⟨fun s hr => ?_, fun s hr => exec_reportOnly hr (by decide)⟩
  rw [exec, execSwitchToAccelReportMode, accept_of_passes (filtered_of_normal hr (by decide)), State.storeOpcode_eq]

/-- Settles O20: the constructors of the reserved range. -/
theorem reservedOpcodesDiscarded : Obligations.ReservedOpcodesDiscarded := by
  intro i s h
  cases i with
  | ready | steps | execQueue | getAccels | switchToAccelReportMode => cases h
  | reserved05 | reserved06_07 | reserved08_0F | reserved10_1F | reserved20_3F | reserved40_7F | reserved80_FF => rfl

/-- Settles O21, by the filter. -/
theorem reportOnlyDiscardsOthers : Obligations.ReportOnlyDiscardsOthers :=
  fun _ _ hr hi => exec_reportOnly hr hi

/-- Settles O22: both conditions are the filter's, on the byte the decoded instruction stands for. -/
theorem violationConsumesOneByte : Obligations.ViolationConsumesOneByte := by
  intro s b rest hp hrx hviolation
  have hfiltered : filtered s.reportOnly (encodeOpcode (decodeOpcode b)) = true := by
    rw [encodeOpcode_decodeOpcode, filtered]
    rcases hviolation with h | ⟨h, h3⟩
    · simp [h]
    · exact Bool.or_eq_true_iff.mpr (.inl (by simpa [h] using h3))
  exact (step_polls_cons hp hrx).trans (exec_of_filtered hfiltered)

/-- Settles O30: STEPS ends in an error, which is a return, or in its append, which answers; the other commands answer in
both branches of the filter. -/
theorem instructionsAlwaysComplete : Obligations.InstructionsAlwaysComplete := by
  intro i s
  cases hf : filtered s.reportOnly (encodeOpcode i) with
  | true => exact ⟨_, exec_of_filtered hf⟩
  | false =>
    cases i with
    | ready => exact ⟨_, accept_of_passes hf _⟩
    | execQueue => exact ⟨_, by rw [exec, execExecQueue]; exact accept_of_passes hf _⟩
    | getAccels => exact ⟨_, by rw [exec, execGetAccels]; exact accept_of_passes hf _⟩
    | switchToAccelReportMode => exact ⟨_, by rw [exec, execSwitchToAccelReportMode]; exact accept_of_passes hf _⟩
    | reserved05 | reserved06_07 | reserved08_0F | reserved10_1F | reserved20_3F | reserved40_7F | reserved80_FF =>
      exact ⟨_, rfl⟩
    | steps =>
      have hexec : exec .steps s = stepsWith s.params.stepsCrcSpan (s.storeOpcode 0x01) := accept_of_passes hf _
      obtain ⟨m, rx, i, t, c, b, h | h⟩ := stepsWith_cases s.params.stepsCrcSpan (s.storeOpcode 0x01)
      · exact ⟨_, hexec.trans h⟩
      · rw [hexec, h, stepsAppend_eq]
        split <;> exact ⟨_, rfl⟩

/-! ### What every instruction keeps -/

/-- The fields an instruction can write, whatever its end. -/
theorem InstrOutcome.frame {i : Instr} {s t : State} (h : InstrOutcome i s t) :
    t = { s with
      phase := t.phase, crc := t.crc, buf := t.buf, defer := t.defer, qmem := t.qmem, tail := t.tail
      count := t.count, interbyte := t.interbyte, transaction := t.transaction, rx := t.rx, tx := t.tx
      env := t.env, pinFpgaReady := t.pinFpgaReady, busData := t.busData, xferDone := t.xferDone
      fpgaOut := t.fpgaOut } := by
  cases h with
  | discarded ht | answered _ _ ht | cleared _ _ ht | switched _ _ ht => subst ht; rfl
  | reported _ ht => rw [ht, State.respond_eq]; rfl
  | stepsRaised _ _ _ _ _ _ _ _ ht => rw [ht, State.seen_update]; rfl
  | stepsFull _ _ _ _ _ _ _ _ ht | stepsStored _ _ _ _ _ _ _ _ ht => rw [ht, State.seen_update]

/-- The timeout counters are STEPS's (rules R38, R163). -/
theorem InstrOutcome.counters {i : Instr} {s t : State} (h : InstrOutcome i s t) (hi : i ≠ .steps) :
    t.interbyte = s.interbyte ∧ t.transaction = s.transaction := by
  cases h with
  | discarded ht | answered _ _ ht | cleared _ _ ht | switched _ _ ht => rw [ht]; exact ⟨rfl, rfl⟩
  | reported _ ht => rw [ht, State.respond_eq]; exact ⟨rfl, rfl⟩
  | stepsRaised e | stepsFull e | stepsStored e => exact absurd e hi

/-- An instruction returns from `poll()`, unless it is SWITCH and passes the filter (rules R175, R280). -/
theorem InstrOutcome.phase {i : Instr} {s t : State} (h : InstrOutcome i s t) :
    t.phase = s.phase.afterPoll ∨ (i = .switchToAccelReportMode ∧ s.reportOnly = false ∧ t.phase = .eEnter) := by
  cases h with
  | switched hi hr ht => exact .inr ⟨hi, hr, by rw [ht]⟩
  | discarded ht | answered _ _ ht | cleared _ _ ht => exact .inl (by subst ht; rfl)
  | reported _ ht => exact .inl (by rw [ht, State.respond_eq])
  | stepsRaised _ _ _ _ _ _ _ _ ht | stepsFull _ _ _ _ _ _ _ _ ht | stepsStored _ _ _ _ _ _ _ _ ht =>
    exact .inl (by simp [ht, State.seen_update])

/-- The inputs and the bus are as some turns of the environment leave them (rule R68). -/
theorem InstrOutcome.turns {i : Instr} {s t : State} (h : InstrOutcome i s t) :
    ∃ k, t.env = s.env.drop k ∧ t.pinFpgaReady = (s.envTurns k).pinFpgaReady ∧
      t.busData = (s.envTurns k).busData ∧ t.xferDone = (s.envTurns k).xferDone ∧
      t.fpgaOut = (s.envTurns k).fpgaOut := by
  cases h with
  | discarded ht | cleared _ _ ht | switched _ _ ht => exact ⟨0, by simp [ht]⟩
  | answered _ _ ht => exact ⟨1, by simp [ht, State.envTurns_one]⟩
  | reported _ ht => exact ⟨1, by simp [ht, State.respond_eq, State.envTurns_one]⟩
  | stepsRaised _ _ m _ _ _ _ _ ht | stepsFull _ _ _ m _ _ _ _ ht | stepsStored _ _ _ m _ _ _ _ ht =>
    exact ⟨m, by simp [ht, State.seen]⟩

/-- Settles O29: each clause is one of the facts about the ways an instruction can end. -/
theorem instructionFrame : Obligations.InstructionFrame := by
  intro i s t hexec
  have h := exec_outcome hexec
  refine ⟨h.frame, fun hi => ?_, h.counters, fun hi => ?_, h.turns⟩
  · exact h.defer.resolve_right fun ⟨he, _⟩ => hi he
  · exact h.phase.resolve_right fun ⟨he, _⟩ => hi he

/-! ### Where an instruction stores -/

/-- Byte `k` of the Command in the scratch buffer (rule R26). -/
theorem State.bufCommand_get (s : State) (k : Fin 13) :
    s.bufCommand.get k = s.buf.get ⟨k.val + 1, by omega⟩ := by
  have hbyte : s.bufCommand[k.val] = s.buf[k.val + 1] := by simp [State.bufCommand, sliceBytes]
  exact hbyte

/-- An instruction leaves the queue alone, unless it is STEPS and stores the Command of its scratch buffer (rule R171). -/
theorem InstrOutcome.queue {i : Instr} {s t : State} (h : InstrOutcome i s t) :
    (t.qmem = s.qmem ∧ t.tail = s.tail ∧ t.count = s.count) ∨
      (i = .steps ∧ s.reportOnly = false ∧ s.count ≠ 200 ∧ t.qmem = s.qmem.writeSlot s.tail t.bufCommand ∧
        t.tail = s.tail + 1 ∧ t.count = s.count + 1) := by
  cases h with
  | stepsStored hi hr hc _ _ _ _ _ ht => exact .inr ⟨hi, hr, hc, by rw [ht]; rfl, by rw [ht], by rw [ht]⟩
  | discarded ht | answered _ _ ht | cleared _ _ ht | switched _ _ ht => exact .inl (by simp [ht])
  | reported _ ht => exact .inl (by simp [ht, State.respond_eq])
  | stepsRaised _ _ _ _ _ _ _ _ ht | stepsFull _ _ _ _ _ _ _ _ ht => exact .inl (by simp [ht, State.seen_update])

/-- Settles O28: the queue clause, with what a read answers after a store in slot `tail`. -/
theorem onlyStepsStoresAtTail : Obligations.OnlyStepsStoresAtTail := by
  refine ⟨fun s t hexec => ?_, fun i s t hi hexec => ?_⟩
  · obtain ⟨hm, htail, hcount⟩ | ⟨-, -, hc, hm, htail, hcount⟩ := (exec_outcome hexec).queue
    · exact .inl ⟨htail, hcount, fun a => by rw [hm]⟩
    · refine .inr ⟨htail, hcount, hc, fun a ha => ?_, fun k => ?_⟩
      · rw [hm, Memory.read_writeSlot, if_neg]
        rw [slotAddr]
        omega
      · rw [hm, Memory.read_writeSlot, if_pos (by rw [slotAddr]; omega), ← State.bufCommand_get]
        simp [slotAddr, Vector.get]
  · obtain ⟨hm, htail, hcount⟩ | ⟨he, -⟩ := (exec_outcome hexec).queue
    · exact ⟨htail, hcount, fun a => by rw [hm]⟩
    · exact absurd he hi

/-! ### What an instruction sends -/

/-- The response to an accepted STEPS and to one that found the queue full, with their checksums (rules R95, R171). -/
theorem steps_response_checksums : crc16 [0x01, 0x01] = 0x3E1F ∧ crc16 [0x01, 0x00] = 0x2E3E := by
  decide +kernel

/-- Only READY, STEPS and GET_ACCELS send, each a payload and its checksum (rules R94, R95, R176). -/
theorem InstrOutcome.response {i : Instr} {s t : State} (h : InstrOutcome i s t) :
    t.tx = s.tx ∨
    ∃ payload : List Byte,
      t.tx = s.tx ++ payload ++ [hi8 (crc16 (encode i ++ payload)), lo8 (crc16 (encode i ++ payload))] ∧
      ((i = .ready ∧ payload = [s.params.readyMagic]) ∨
        (i = .steps ∧ (payload = [0x01] ∨ payload = [0x00])) ∨
        (i = .getAccels ∧ payload.length = 4)) := by
  cases h with
  | discarded ht | cleared _ _ ht | switched _ _ ht => exact .inl (by simp [ht])
  | stepsRaised _ _ _ _ _ _ _ _ ht => exact .inl (by simp [ht, State.seen_update])
  | answered hi _ ht =>
    subst hi
    exact .inr ⟨[s.params.readyMagic], by simp [ht, encode, encodeOpcode], .inl ⟨rfl, rfl⟩⟩
  | reported hi ht =>
    subst hi
    exact .inr ⟨[hi8 s.accelRear, lo8 s.accelRear, hi8 s.accelFront, lo8 s.accelFront],
      by simp [ht, State.respond_eq, encode, encodeOpcode], .inr (.inr ⟨rfl, rfl⟩)⟩
  | stepsStored hi _ _ _ _ _ _ _ ht =>
    subst hi
    refine .inr ⟨[0x01], ?_, .inr (.inl ⟨rfl, .inl rfl⟩)⟩
    simp only [ht, encode, encodeOpcode, List.singleton_append, steps_response_checksums.1, List.append_assoc]
    rfl
  | stepsFull hi _ _ _ _ _ _ _ ht =>
    subst hi
    refine .inr ⟨[0x00], ?_, .inr (.inl ⟨rfl, .inr rfl⟩)⟩
    simp only [ht, encode, encodeOpcode, List.singleton_append, steps_response_checksums.2, List.append_assoc]
    rfl

/-- Settles O31, by the ways an instruction can end. -/
theorem responsesAreChecksummed : Obligations.ResponsesAreChecksummed := fun _ _ _ h => (exec_outcome h).response

end Sys2Proof.Machine
end

section
/-! The timed read (rules R163, R164) and STEPS (rule R171) with its operand bytes there. -/

namespace Sys2Proof.Machine

/-- Everything a timed read can do, under any limits (rules R163, R164). -/
theorem timedReadWith_cases (I T n : Nat) (s : State) :
    ∃ (m : Nat) (r rx : List Byte) (i t : Nat), m ≤ n + T + 1 ∧ timedReadWith I T n s = (s.afterRead m rx i t, r) ∧
      r ++ rx = (s.envTurns m).rx ∧ (r.length = n ∨ (r.length < n ∧ rx = [] ∧ (I < i ∨ T < t))) := by
  obtain ⟨m, r, rx, i, t, hm, hread, htaken, hend⟩ := timedReadLoop_cases I T (T + n + 1) n s.startCounters []
    (by simp) (by simp [State.startCounters]; omega)
  rw [State.startCounters_envTurns_rx] at htaken
  refine ⟨m, r, rx, i, t, by omega, ?_, htaken, hend⟩
  rw [timedReadWith, hread, State.startCounters_eq, State.afterRead_afterRead, Nat.zero_add, List.nil_append]

/-- Settles O33: the two ends of the loop. -/
theorem timedReadOutcomes : Obligations.TimedReadOutcomes := timedReadWith_cases

/-- Bytes that are in RX already feed a read. -/
theorem State.feeds_of_le_length {s : State} {n : Nat} (h : n ≤ s.rx.length) : s.feeds n := by
  intro j hj
  rw [State.envTurns_rx, List.length_append]
  omega

/-- Settles O34: such a read is fed, and what arrives meanwhile stands behind its bytes. -/
theorem timedReadCompletes : Obligations.TimedReadCompletes := by
  intro I T n s h
  rw [timedReadWith_feeds I T n s (State.feeds_of_le_length h), State.envTurns_rx, List.take_append_of_le_length h]
  rfl

/-- STEPS outside REPORT_ONLY with its 15 operand bytes there as it looks for them (rules R164, R171). -/
theorem exec_steps_fed {s : State} {p : Command} {hi lo : Byte} (hr : s.reportOnly = false) (hf : s.feeds 15)
    (hrx : (s.envTurns 15).rx.take 15 = p.toList ++ [hi, lo]) :
    exec .steps s =
      if requestChecksum s.params.stepsCrcSpan p = joinBytes hi lo then
        stepsAppend (s.seen 15 ((s.envTurns 15).rx.drop 15) 0 0 (requestChecksum s.params.stepsCrcSpan p)
          ((#v[(0x01 : Byte)] ++ p) ++ #v[hi, lo]))
      else .next (s.seen 15 ((s.envTurns 15).rx.drop 15) 0 0 (requestChecksum s.params.stepsCrcSpan p)
          ((#v[(0x01 : Byte)] ++ p) ++ #v[hi, lo])).returnFromPoll := by
  rw [exec, execSteps_eq hr, stepsWith_fed _ s p hi lo hf hrx, requestChecksum_eq]

/-- The turn before the answer: a byte that arrives in it stands behind the request. -/
theorem State.seen_fed_envTurn {s : State} (hf : s.feeds 15) (c : Half) (b : Vector Byte 16) :
    (s.seen 15 ((s.envTurns 15).rx.drop 15) 0 0 c b).envTurn = s.seen 16 ((s.envTurns 16).rx.drop 15) 0 0 c b := by
  have hlen : 15 ≤ (s.envTurns 15).rx.length := hf 14 (by omega)
  rw [State.seen_envTurn, ← State.envTurn_envTurns 15 s, State.envTurn_rx, List.drop_append_of_le_length hlen]

/-- The answer to a request that has been read and verified (rules R171, R273). -/
theorem stepsAppend_fed {s : State} (hf : s.feeds 15) (c : Half) (p : Command) (hi lo : Byte) :
    stepsAppend (s.seen 15 ((s.envTurns 15).rx.drop 15) 0 0 c ((#v[(0x01 : Byte)] ++ p) ++ #v[hi, lo])) =
      if s.count = 200 then
        .next { s.seen 16 ((s.envTurns 16).rx.drop 15) 0 0 0x2E3E ((#v[(0x01 : Byte)] ++ p) ++ #v[hi, lo]) with
          tx := s.tx ++ [0x00, 0x2E, 0x3E], phase := s.phase.afterPoll }
      else
        .next { s.seen 16 ((s.envTurns 16).rx.drop 15) 0 0 0x3E1F ((#v[(0x01 : Byte)] ++ p) ++ #v[hi, lo]) with
          qmem := s.qmem.writeSlot s.tail p, tail := s.tail + 1, count := s.count + 1
          tx := s.tx ++ [0x01, 0x3E, 0x1F], phase := s.phase.afterPoll } := by
  rw [stepsAppend_eq, State.seen_fed_envTurn hf, bufCommand_seen]
  simp only [State.seen_update]

/-- Settles O23: the checksum verifies and the queue has room. -/
theorem stepsAccepted : Obligations.StepsAccepted := by
  intro s p hi lo hr hc hf hrx hsum
  rw [exec_steps_fed hr hf hrx, if_pos hsum.symm, stepsAppend_fed hf, if_neg hc, State.seen]

/-- Settles O24: the checksum verifies and the queue is full. -/
theorem stepsQueueFull : Obligations.StepsQueueFull := by
  intro s p hi lo hr hc hf hrx hsum
  rw [exec_steps_fed hr hf hrx, if_pos hsum.symm, stepsAppend_fed hf, if_pos hc, State.seen]

/-- Settles O25: the checksum does not verify. -/
theorem stepsChecksumMismatch : Obligations.StepsChecksumMismatch := by
  intro s p hi lo hr hf hrx hsum
  rw [exec_steps_fed hr hf hrx, if_neg (Ne.symm hsum), State.returnFromPoll, State.seen, State.envTurns_phase]

/-- What is queued is in QMEM, `head` and `count` (rule R27). -/
theorem State.queued_congr {s t : State} (hm : t.qmem = s.qmem) (hc : t.count = s.count) (hh : t.head = s.head) :
    t.queued = s.queued := by
  simp only [State.queued, State.slotAt, hm, hc, hh]

/-- The operand bytes of an assembled STEPS request, and what follows it in RX (rules R92, R93). -/
theorem rx_of_assembled {s : State} {p : Command} {rest : List Byte} {span : CrcSpan}
    (h : 0x01 :: s.rx = (HostLine.steps p).assemble span ++ rest) :
    s.rx = (p.toList ++ [hi8 (requestChecksum span p), lo8 (requestChecksum span p)]) ++ rest := by
  simpa [HostLine.assemble] using h

/-- Settles O27: the assembled request meets the hypotheses of `stepsAccepted`, and its store is the queue's append. -/
theorem assembledStepsAccepted : Obligations.AssembledStepsAccepted := by
  intro p s rest hinv hroom hr hassembled
  have hrx := rx_of_assembled hassembled
  have hlen : (p.toList ++ [hi8 (requestChecksum s.params.stepsCrcSpan p),
      lo8 (requestChecksum s.params.stepsCrcSpan p)]).length = 15 := by simp
  have htake : (s.envTurns 15).rx.take 15 = p.toList ++ [hi8 (requestChecksum s.params.stepsCrcSpan p),
      lo8 (requestChecksum s.params.stepsCrcSpan p)] := by
    rw [State.envTurns_rx, hrx, List.append_assoc, List.take_left' hlen]
  have hdrop : (s.envTurns 16).rx.drop 15 = rest ++ s.hostIn 16 := by
    rw [State.envTurns_rx, hrx, List.append_assoc, List.drop_left' hlen]
  have hf : s.feeds 15 := State.feeds_of_le_length (by rw [hrx, List.length_append, hlen]; omega)
  obtain ⟨hinv', hq⟩ := hinv.storeTail (by omega) p
  have hexec := stepsAccepted s p _ _ hr (by omega) hf htake (joinBytes_hi_lo _)
  have hhead := State.envTurns_head 16 s
  have hdefer := State.envTurns_defer 16 s
  have hrear := State.envTurns_accelRear 16 s
  have hfront := State.envTurns_accelFront 16 s
  have hmode := State.envTurns_reportOnly 16 s
  generalize s.envTurns 16 = u at hexec hdrop hhead hdefer hrear hfront hmode
  rw [← hq]
  exact ⟨_, hexec, rfl, State.queued_congr rfl rfl hhead, hinv'.congr rfl rfl hhead rfl, ⟨s.hostIn 16, hdrop⟩, rfl,
    hhead, hdefer, hrear, hfront, hmode⟩

end Sys2Proof.Machine
end

section
/-! The old contents of `crc` and `buf` (rules R21, R26, R147): STEPS overwrites what it later reads of them. -/

namespace Sys2Proof.Machine

/-- Two outcomes are next states that differ in `crc` and `buf` at most. -/
def SameButScratch (o o' : Host.Outcome State Fault Refusal) : Prop :=
  ∃ (t : State) (c : Half) (b : Vector Byte 16), o = .next t ∧ o' = .next (t.withScratch c b)

theorem SameButScratch.of_eq {o o' : Host.Outcome State Fault Refusal} (h : ∃ t, o = .next t) (he : o' = o) :
    SameButScratch o o' := by
  obtain ⟨t, rfl⟩ := h
  exact ⟨t, t.crc, t.buf, rfl, he⟩

/-- A timed read writes no scratch buffer and takes no more bytes than asked (rule R163). -/
theorem timedRead_buf_length {n : Nat} {s t : State} {r : List Byte} (h : timedRead n s = (t, r)) :
    t.buf = s.buf ∧ r.length ≤ n := by
  obtain ⟨m, r', rx, i, u, -, hread, -, hlen⟩ := timedReadWith_cases Config.interbyteLimit Config.transactionLimit n s
  obtain ⟨rfl, rfl⟩ := Prod.mk.inj (h.symm.trans hread)
  exact ⟨State.envTurns_buf m s, by omega⟩

/-- The scratch buffer of a complete request is all new (rule R26). -/
def stepsBuf (p : Command) (hi lo : Byte) : Vector Byte 16 := (#v[(0x01 : Byte)] ++ p) ++ #v[hi, lo]

/-- STEPS whose two timed reads complete, however long they waited: from then on the accumulator and the scratch buffer are
what the request makes them (rules R141, R171). -/
theorem stepsWith_complete (span : CrcSpan) {s u w : State} {p : Command} {hi lo : Byte}
    (hpayload : timedRead 13 (s.storeOpcode 0x01) = (u, p.toList))
    (hchecksum : timedRead 2 (u.storePayload p.toList) = (w, [hi, lo])) :
    stepsWith span (s.storeOpcode 0x01) =
      if crc16 (coveredBytes span p) = joinBytes hi lo then
        stepsAppend (w.withScratch (crc16 (coveredBytes span p)) (stepsBuf p hi lo))
      else .next (w.withScratch (crc16 (coveredBytes span p)) (stepsBuf p hi lo)).returnFromPoll := by
  have hu : u.buf = putBytes s.buf 0 [0x01] := (timedRead_buf_length hpayload).1
  have hw : w.buf = putBytes (putBytes s.buf 0 [0x01]) 1 p.toList := by
    rw [(timedRead_buf_length hchecksum).1, State.storePayload_buf, hu]
  have hcovered : (u.storePayload p.toList).stepsCovered span = coveredBytes span p := by
    have h := stepsCovered_eq span s p
    cases span <;> simpa [State.stepsCovered, coveredBytes, hu] using h
  have hlen : ¬ p.toList.length < 13 := by simp
  rw [stepsWith, hpayload]
  simp only [hlen, if_false]
  rw [stepsVerify, hcovered, State.crcVerify_received hchecksum, hw, stepsBuf_eq]
  by_cases hc : crc16 (coveredBytes span p) = joinBytes hi lo
  · rw [if_pos hc, if_pos hc]
    rfl
  · rw [if_neg hc, if_neg hc]
    rfl

/-- STEPS with other old contents of the accumulator and the scratch buffer: a read that is cut short has written nothing that
depends on them, and after two complete reads nothing is left of them (rules R26, R171). -/
theorem stepsWith_sameButScratch (span : CrcSpan) (s : State) (c : Half) (v : Vector Byte 16) :
    SameButScratch (stepsWith span (s.storeOpcode 0x01)) (stepsWith span ((s.withScratch c v).storeOpcode 0x01)) := by
  have hread := timedRead_withScratch c (putBytes v 0 [0x01]) 13 (s.storeOpcode 0x01)
  obtain ⟨u, r, hr⟩ : ∃ u r, timedRead 13 (s.storeOpcode 0x01) = (u, r) := ⟨_, _, rfl⟩
  have hr' : timedRead 13 ((s.withScratch c v).storeOpcode 0x01) = (u.withScratch c (putBytes v 0 [0x01]), r) := by
    rw [hr] at hread
    exact hread
  by_cases hshort : r.length < 13
  · exact ⟨u.returnFromPoll, c, putBytes v 0 [0x01], stepsWith_payload_short span hr hshort,
      stepsWith_payload_short span hr' hshort⟩
  have h13 : r.length = 13 := by
    have := (timedRead_buf_length hr).2
    omega
  have hread2 := timedRead_withScratch c (putBytes (putBytes v 0 [0x01]) 1 r) 2 (u.storePayload r)
  obtain ⟨w, q, hq⟩ : ∃ w q, timedRead 2 (u.storePayload r) = (w, q) := ⟨_, _, rfl⟩
  have hq' : timedRead 2 ((u.withScratch c (putBytes v 0 [0x01])).storePayload r) =
      (w.withScratch c (putBytes (putBytes v 0 [0x01]) 1 r), q) := by
    rw [hq] at hread2
    exact hread2
  by_cases hshort2 : q.length < 2
  · exact ⟨w.returnFromPoll, c, putBytes (putBytes v 0 [0x01]) 1 r, stepsWith_checksum_short span hr h13 hq hshort2,
      stepsWith_checksum_short span hr' h13 hq' hshort2⟩
  · obtain ⟨hi, lo, rfl⟩ : ∃ hi lo, q = [hi, lo] := by
      have := (timedRead_buf_length hq).2
      exact List.length_eq_two.mp (by omega)
    obtain ⟨p, rfl⟩ : ∃ p : Command, r = p.toList := ⟨⟨r.toArray, by simpa using h13⟩, rfl⟩
    refine SameButScratch.of_eq ?_ ((stepsWith_complete span hr' hq').trans (stepsWith_complete span hr hq).symm)
    rw [stepsWith_complete span hr hq, stepsAppend_eq]
    split_ifs <;> exact ⟨_, rfl⟩

/-- An instruction with other old contents of the two registers (rules R21, R26): the filter reads neither, the five commands
write before they read, and the rest touch neither. -/
theorem exec_sameButScratch (i : Instr) (s : State) (c : Half) (v : Vector Byte 16) :
    SameButScratch (exec i s) (exec i (s.withScratch c v)) := by
  by_cases hi : i = .getAccels
  · subst hi
    exact ⟨_, _, _, getAccelsAnswers s, getAccelsAnswers (s.withScratch c v)⟩
  by_cases hr : s.reportOnly = true
  · exact ⟨s.returnFromPoll, c, v, exec_reportOnly hr hi, exec_reportOnly (s := s.withScratch c v) hr hi⟩
  have hr : s.reportOnly = false := by simpa using hr
  have hr' : (s.withScratch c v).reportOnly = false := hr
  cases i with
  | ready => exact ⟨_, _, _, exec_ready_of_normal hr, exec_ready_of_normal hr'⟩
  | steps =>
    rw [exec, exec, execSteps_eq hr, execSteps_eq hr']
    exact stepsWith_sameButScratch s.params.stepsCrcSpan s c v
  | execQueue => exact ⟨_, c, _, exec_execQueue_of_normal hr, exec_execQueue_of_normal hr'⟩
  | getAccels => exact absurd rfl hi
  | switchToAccelReportMode =>
    exact ⟨_, c, _, switchEntersReportOnly.1 s hr, switchEntersReportOnly.1 (s.withScratch c v) hr'⟩
  | reserved05 | reserved06_07 | reserved08_0F | reserved10_1F | reserved20_3F | reserved40_7F | reserved80_FF =>
    exact ⟨s.returnFromPoll, c, v, rfl, rfl⟩

/-- Settles O32, with the two registers replaced at once. -/
theorem oldCrcAndBufUnseen : Obligations.OldCrcAndBufUnseen := exec_sameButScratch

end Sys2Proof.Machine
end

section
/-! What the checksum detects (rule R148): every fold is injective in its accumulator and in each of its bytes. -/

namespace Sys2Proof.Machine

/-- A fold of a concatenation goes on where the first part ended (rule R143). -/
theorem crc16_append (xs ys : List Byte) : crc16 (xs ++ ys) = crcFrom (crc16 xs) ys := crcFrom_append _ xs ys

/-- Settles O38: the fold goes on from the checksum, and its own two bytes clear it. -/
theorem checksumResidueIsZero : Obligations.ChecksumResidueIsZero := by
  intro bytes
  rw [crc16_append, crcFrom_own_checksum]

/-- Settles O39: the changed byte leaves another accumulator, and the bytes after it keep the difference. -/
theorem singleErrorsAreDetected : Obligations.SingleErrorsAreDetected := by
  refine ⟨fun front back b b' hne h => ?_, fun acc acc' bytes hne h => hne (crcFrom_injective bytes h)⟩
  rw [crc16_append, crc16_append, crcFrom_cons, crcFrom_cons] at h
  exact hne (crcByte_injective_right (crc16 front) (crcFrom_injective back h))

end Sys2Proof.Machine
end

section
/-! The FPGA Exchange Loop (rules R201 to R207): the wait for the sentinel, the frame, and the hold of one transfer. -/

namespace Sys2Proof.Machine

/-- Settles O45: byte `k` of the Command stands behind the one head byte. -/
theorem frameLayout : Obligations.FrameLayout := by
  intro body
  refine ⟨frameOf_toList body, by simp, fun k => ?_⟩
  rw [frameOf_toList, List.getElem?_cons_succ, List.getElem?_append_left (by simp)]
  simp [Vector.get]

/-- `N_WAIT` without the sentinel (rule R201). -/
theorem step_wait_other {s : State} (hp : s.phase = .nWait) (hb : s.envTurn.busData ≠ 0x5A) :
    step s = .next s.envTurn := by
  rw [step_nWait hp, waitSentinel, waitSentinelWith_other hb]

/-- Settles O43, by the look that finds another byte. -/
theorem otherBytesAreNoSentinel : Obligations.OtherBytesAreNoSentinel := fun _ => step_wait_other

/-- `N_WAIT` on the sentinel (rules R201, R202). -/
theorem step_wait_sentinel {s u : State} {f : Frame} (hp : s.phase = .nWait) (hb : s.envTurn.busData = 0x5A)
    (hbuild : buildFrameWith s.params.deferGateEffective { s.envTurns 2 with busData := 0x00 } = (u, f)) :
    step s = .next { u with frameBuf := f, phase := .nSend 0 } := by
  rw [step_nWait hp, waitSentinel, waitSentinelWith_sentinel hb hbuild]

/-- Settles O44: what the frame builder finds in the state after two turns is what it would have found before them. -/
theorem sentinelBuildsFrame : Obligations.SentinelBuildsFrame := by
  refine ⟨fun s hp hb hheld => ?_, fun s hp hb hopen hc => ?_, fun s hinv hp hb hopen hc => ?_⟩
  · have hbuild := buildFrameWith_filler (gate := s.params.deferGateEffective)
      (s := { s.envTurns 2 with busData := 0x00 }) (by simpa using hheld)
    rw [step_wait_sentinel hp hb hbuild]
  · obtain ⟨cmd, d, hbuild⟩ := buildFrameWith_takes (gate := s.params.deferGateEffective)
      (s := { s.envTurns 2 with busData := 0x00 }) (by simpa using hopen) (by simpa using hc)
    refine ⟨cmd, d, ?_⟩
    rw [step_wait_sentinel hp hb hbuild]
    simp only [State.dropHead, State.envTurns_head, State.envTurns_count]
  · obtain ⟨cmd, hslot, -, hq⟩ := hinv.dropHead hc
    have hbuild := buildFrameWith_pop (gate := s.params.deferGateEffective)
      (s := { s.envTurns 2 with busData := 0x00 }) (by simpa using hopen) (by simpa using hc) (by simpa using hslot)
    refine ⟨cmd, by rw [hq]; rfl, ?_⟩
    rw [step_wait_sentinel hp hb hbuild]
    simp only [State.dropHead, State.envTurns_head, State.envTurns_count]

/-! ### One transfer -/

/-- `N_SEND(i)` in `SLAVE` role, its transfer not begun or not complete (rules R37, R204). -/
structure Sending (i : Fin 19) (s : State) : Prop where
  phase : s.phase = .nSend i
  role : s.busRole = .slave
  pending : ∀ b, s.xfer = some b → s.xferDone = false ∧ b = s.frameBuf.get i

/-- The invariant of a run says so of every `N_SEND(i)`. -/
theorem Inv.sending {s : State} {i : Fin 19} (h : Inv s) (hp : s.phase = .nSend i) : Sending i s where
  phase := hp
  role := by
    have hrole := h.role
    rw [hp] at hrole
    exact hrole
  pending := fun b hb => by
    obtain ⟨hdone, j, hj, rfl⟩ := h.transfer b hb
    obtain rfl : i = j := Phase.nSend.inj (hp.symm.trans hj)
    exact ⟨hdone, rfl⟩

/-- `u` is `s` after `j` turns of the environment, with the transfer of frame byte `i` begun and not complete. -/
structure Holding (i : Fin 19) (j : Nat) (s u : State) : Prop where
  xfer : u.xfer = some (s.frameBuf.get i)
  pending : u.xferDone = false
  out : u.fpgaOut = s.fpgaOut
  frame : u = { s.envTurns j with
    phase := u.phase, xfer := u.xfer, xferDone := u.xferDone, fpgaOut := u.fpgaOut, busData := u.busData }

/-- A step of `N_SEND(i)` looks once at the hold, beginning the transfer before if that is still to do. -/
theorem Sending.looks {i : Fin 19} {s : State} (h : Sending i s) :
    ∃ (j : Nat) (u : State), j ≤ 1 ∧ step s = holdTransfer i u ∧ Holding i j s u ∧ Sending i u := by
  have hstep := step_nSend h.phase
  cases hx : s.xfer with
  | none =>
    have hout := (State.busAfterTurn_of_no_xfer hx).2
    refine ⟨1, s.beginTransfer (s.frameBuf.get i), le_refl 1, by rw [hstep, sendByte_begin h.role hx],
      ⟨rfl, rfl, hout, rfl⟩, ⟨h.phase, h.role, fun b hb => ⟨rfl, (Option.some.inj hb).symm⟩⟩⟩
  | some b =>
    obtain ⟨hdone, rfl⟩ := h.pending b hx
    exact ⟨0, s, Nat.zero_le 1, by rw [hstep, sendByte_hold h.role hx], ⟨hx, hdone, rfl, rfl⟩, h⟩

/-- The environment's turn before the look. -/
theorem Holding.envTurn_frame {i : Fin 19} {j : Nat} {s u : State} (h : Holding i j s u) :
    u.envTurn = { s.envTurns (j + 1) with
      phase := u.envTurn.phase, xfer := u.envTurn.xfer, xferDone := u.envTurn.xferDone, fpgaOut := u.envTurn.fpgaOut
      busData := u.envTurn.busData } := by
  rw [h.frame, ← State.envTurn_envTurns]
  rfl

/-- Settles O46: the one look finds the transfer complete or not, and so the FPGA has received the byte or not. -/
theorem sendHoldsOrAdvances : Obligations.SendHoldsOrAdvances := by
  intro s i hinv hp
  obtain ⟨j, u, hj, hstep, hold, hu⟩ := (hinv.sending hp).looks
  have hk : j + 1 = 1 ∨ j + 1 = 2 := by omega
  obtain ⟨hdone, hout⟩ | ⟨hdone, hout⟩ := State.busAfterTurn_of_xfer hu.role hold.xfer hold.pending
  · exact ⟨u.envTurn, by rw [hstep, holdTransfer_waits hdone],
      .inr ⟨hu.phase, hold.xfer, hdone, hout.trans hold.out⟩, j + 1, hk, hold.envTurn_frame⟩
  · refine ⟨{ u.envTurn with xfer := none, phase := afterSend i }, by rw [hstep, holdTransfer_done hdone],
      .inl ⟨afterSend_eq i, rfl, hdone, ?_⟩, j + 1, hk, ?_⟩
    · rw [← hold.out]
      exact hout
    · rw [hold.envTurn_frame]

/-- The same, of the state that a step of `N_SEND(i)` leaves. -/
theorem Inv.step_send {s t : State} {i : Fin 19} (h : Inv s) (hp : s.phase = .nSend i) (hstep : step s = .next t) :
    ((t.phase = (if i.val = 18 then .nPoll else .nSend (i + 1)) ∧ t.xfer = none ∧ t.xferDone = true ∧
        t.fpgaOut = s.fpgaOut ++ [s.frameBuf.get i]) ∨
      (t.phase = .nSend i ∧ t.xfer = some (s.frameBuf.get i) ∧ t.xferDone = false ∧ t.fpgaOut = s.fpgaOut)) ∧
    ∃ k, t = { s.envTurns k with
      phase := t.phase, xfer := t.xfer, xferDone := t.xferDone, fpgaOut := t.fpgaOut, busData := t.busData } := by
  obtain ⟨u, hstep', hmoves, k, -, hframe⟩ := sendHoldsOrAdvances s i h hp
  obtain rfl := Host.Outcome.next.inj (hstep'.symm.trans hstep)
  exact ⟨hmoves, k, hframe⟩

/-! ### A FPGA that clocks every transfer at once -/

/-- The state after a transfer that the FPGA has clocked, sending `b` back (rules R37, R204). -/
def State.clocked (i : Fin 19) (b : Byte) (later : List (List EnvMove)) (s : State) : State :=
  { s with
    phase := afterSend i, fpgaOut := s.fpgaOut ++ [s.frameBuf.get i], busData := b, xferDone := true
    env := later }

/-- One transfer that the FPGA clocks at the first look (rules R37, R204). -/
theorem step_send_clocked {s : State} {i : Fin 19} {b : Byte} {later : List (List EnvMove)} (hp : s.phase = .nSend i)
    (hr : s.busRole = .slave) (hx : s.xfer = none) (he : s.env = [] :: [EnvMove.fpgaClock b] :: later) :
    step s = .next (s.clocked i b later) := by
  have hbegin : s.beginTransfer (s.frameBuf.get i) = { s with
      env := [EnvMove.fpgaClock b] :: later, busData := s.frameBuf.get i, xferDone := false
      xfer := some (s.frameBuf.get i) } := by
    simp [State.beginTransfer, State.envTurn, State.busAfterTurn, State.nextMoves, he, hostBytes, readyLevel]
  have hturn : (s.beginTransfer (s.frameBuf.get i)).envTurn = { s with
      env := later, fpgaOut := s.fpgaOut ++ [s.frameBuf.get i], busData := b, xferDone := true
      xfer := some (s.frameBuf.get i) } := by
    rw [hbegin]
    simp [State.envTurn, State.busAfterTurn, State.nextMoves, hr, busMove, hostBytes, readyLevel]
  rw [step_nSend hp, sendByte_begin hr hx, holdTransfer_done (by rw [hturn]), hturn, ← hx]
  rfl

/-- The rest of a frame from byte `i` on, one clocked transfer per byte, by induction on the FPGA's replies (rule R204). -/
theorem run_send_clocked (replies : List Byte) : ∀ {s : State} {i : Fin 19} {later : List (List EnvMove)} (b : Byte),
    s.phase = .nSend i → s.busRole = .slave → s.xfer = none → i.val + (b :: replies).length = 19 →
    s.env = ((b :: replies).map fun b => [[], [EnvMove.fpgaClock b]]).flatten ++ later →
    Sys2Proof.core.run (b :: replies).length s = .next { s with
      phase := .nPoll, fpgaOut := s.fpgaOut ++ s.frameBuf.toList.drop i.val
      busData := (b :: replies).getLast (List.cons_ne_nil _ _), xferDone := true, env := later } := by
  induction replies with
  | nil =>
    intro s i later b hp hr hx hlen he
    obtain rfl : i = 18 := Fin.ext (by simpa using hlen)
    have hlast : s.frameBuf.toList.drop (18 : Fin 19).val = [s.frameBuf.get 18] := by
      rw [List.drop_eq_getElem_cons (by simp), List.drop_of_length_le (by simp)]
      rfl
    rw [hlast]
    exact core_run_succ 0 (step_send_clocked hp hr hx he)
  | cons c replies ih =>
    intro s i later b hp hr hx hlen he
    simp only [List.length_cons] at hlen
    have hi : (i + 1).val = i.val + 1 := Fin.val_add_one_of_lt (by rw [Fin.lt_def]; simp; omega)
    have hnext : afterSend i = .nSend (i + 1) := by rw [afterSend_eq, if_neg (by omega)]
    have hdrop : s.frameBuf.toList.drop i.val = s.frameBuf.get i :: s.frameBuf.toList.drop (i + 1).val := by
      rw [List.drop_eq_getElem_cons (by simp), hi]
      rfl
    have hrest := ih (s := s.clocked i b _) (i := i + 1) (later := later) c hnext hr hx
      (by simp only [List.length_cons]; omega) rfl
    rw [List.length_cons, core_run_succ _ (step_send_clocked hp hr hx he), hdrop]
    refine hrest.trans ?_
    simp [State.clocked]

/-- Settles O47: the frame from byte 0 on. -/
theorem wholeFrameSent : Obligations.WholeFrameSent := by
  intro s replies later hp hr hx he
  have hlen : replies.toList.length = 19 := by simp
  obtain ⟨b, bs, hbs⟩ := List.exists_cons_of_length_pos (l := replies.toList) (by omega)
  have hlast : (b :: bs).getLast (List.cons_ne_nil _ _) = replies.get 18 := by
    simp only [← hbs, List.getLast_eq_getElem, hlen]
    rfl
  rw [hbs] at he hlen
  have hrun := run_send_clocked bs b hp hr hx (by simpa using hlen) he
  rw [hlast, hlen] at hrun
  exact hrun

/-! ### A FPGA that does nothing -/

/-- A silent FPGA leaves the bus alone for one turn. -/
theorem State.fpgaSilent.busAfterTurn {s : State} (h : s.fpgaSilent) :
    s.busAfterTurn = { data := s.busData, done := s.xferDone, out := s.fpgaOut } := by
  have hmoves : ∀ m ∈ s.nextMoves, m.onBus = false := by
    cases he : s.env with
    | nil => simp [State.nextMoves, he]
    | cons ms rest =>
      rw [State.nextMoves, he]
      exact h ms (by simp [he])
  have hfold : ∀ (ms : List EnvMove) (v : BusView), (∀ m ∈ ms, m.onBus = false) →
      ms.foldl (busMove s.busRole s.xfer) v = v := by
    intro ms
    induction ms with
    | nil => exact fun v _ => rfl
    | cons m ms ih =>
      intro v hms
      have hm : busMove s.busRole s.xfer v m = v := by
        have honBus := hms m List.mem_cons_self
        cases m with
        | hostByte | fpgaReady => rfl
        | fpgaWrite | fpgaClock => simp [EnvMove.onBus] at honBus
      rw [List.foldl_cons, hm]
      exact ih v fun m' hm' => hms m' (List.mem_cons_of_mem _ hm')
  exact hfold _ _ hmoves

theorem State.fpgaSilent.envTurn {s : State} (h : s.fpgaSilent) : s.envTurn.fpgaSilent :=
  fun ms hms => h ms (List.mem_of_mem_tail hms)

/-- A silent FPGA and a byte that is no sentinel keep `N_WAIT` where it is (rules R207, R324). -/
theorem run_wait_silent (k : Nat) : ∀ {s : State}, s.phase = .nWait → s.busData ≠ 0x5A → s.fpgaSilent →
    Sys2Proof.core.run k s = .next (s.envTurns k) ∧ (s.envTurns k).busData = s.busData ∧
      (s.envTurns k).fpgaOut = s.fpgaOut := by
  induction k with
  | zero => exact fun _ _ _ => ⟨rfl, rfl, rfl⟩
  | succ k ih =>
    intro s hp hb hsilent
    have hdata : s.envTurn.busData = s.busData := congrArg BusView.data hsilent.busAfterTurn
    have hout : s.envTurn.fpgaOut = s.fpgaOut := congrArg BusView.out hsilent.busAfterTurn
    have hb' : s.envTurn.busData ≠ 0x5A := by rwa [hdata]
    obtain ⟨hrun, hdata', hout'⟩ := ih (s := s.envTurn) hp hb' hsilent.envTurn
    exact ⟨(core_run_succ k (step_wait_other hp hb')).trans hrun, hdata'.trans hdata, hout'.trans hout⟩

/-- Settles O48: the turns that pass leave BUSDATA and FPGA_OUT as they were. -/
theorem silentFpgaHoldsWait : Obligations.SilentFpgaHoldsWait := by
  intro k s hp hb hsilent
  obtain ⟨hrun, hdata, hout⟩ := run_wait_silent k hp hb hsilent
  exact ⟨s.envTurns k, hrun, by rw [← hdata], by rw [State.envTurns_phase, hp], State.envTurns_tx k s, hout⟩

/-- A step of `N_SEND(i)` with a silent FPGA goes on holding (rules R204, R323). -/
theorem Sending.step_silent {i : Fin 19} {s : State} (h : Sending i s) (hsilent : s.fpgaSilent) :
    ∃ t : State, step s = .next t ∧ Sending i t ∧ t.fpgaSilent ∧ t.tx = s.tx ∧ t.fpgaOut = s.fpgaOut ∧
      ∃ more, t.rx = s.rx ++ more := by
  obtain ⟨j, u, -, hstep, hold, hu⟩ := h.looks
  have hsilent' : u.fpgaSilent := by
    intro ms hms
    rw [hold.frame] at hms
    simp only [State.envTurns_env] at hms
    exact hsilent ms (List.mem_of_mem_drop hms)
  have hdone : u.envTurn.xferDone = false := (congrArg BusView.done hsilent'.busAfterTurn).trans hold.pending
  have hout : u.envTurn.fpgaOut = s.fpgaOut := (congrArg BusView.out hsilent'.busAfterTurn).trans hold.out
  refine ⟨u.envTurn, by rw [hstep, holdTransfer_waits hdone],
    ⟨hu.phase, hu.role, fun b hb => ⟨hdone, (hu.pending b hb).2⟩⟩, hsilent'.envTurn, ?_, hout, s.hostIn (j + 1), ?_⟩
  · rw [hold.envTurn_frame]
    exact State.envTurns_tx (j + 1) s
  · rw [hold.envTurn_frame]
    exact State.envTurns_rx (j + 1) s

/-- Settles O49: such a step leaves a state of the same kind, for any number of steps. -/
theorem stalledFrameHolds : Obligations.StalledFrameHolds := by
  intro k s i hinv hp hsilent
  have hsending := hinv.sending hp
  clear hinv hp
  induction k generalizing s with
  | zero => exact ⟨s, rfl, hsending.phase, rfl, rfl, [], by simp⟩
  | succ k ih =>
    obtain ⟨u, hstep, hu, hsilent', htx, hout, more, hrx⟩ := hsending.step_silent hsilent
    obtain ⟨t, hrun, hpt, htx', hout', more', hrx'⟩ := ih u hsilent' hu
    exact ⟨t, (core_run_succ k hstep).trans hrun, hpt, htx'.trans htx, hout'.trans hout, more ++ more',
      by rw [hrx', hrx, List.append_assoc]⟩

end Sys2Proof.Machine
end

section
/-! What every step but a poll leaves alone, in every state (rules R31, R32, R42, R43, R160, R165). -/

namespace Sys2Proof.Machine

/-- From `s` to `t` the environment has had `k` turns, no byte was taken from RX or sent on TX, no parameter and no defer flag
was written, and the one-way parts of the state only grew. -/
structure Quiet (k : Nat) (s t : State) : Prop where
  env : t.env = s.env.drop k
  rx : t.rx = s.rx ++ s.hostIn k
  tx : t.tx = s.tx
  params : t.params = s.params
  defer : t.defer = s.defer
  reportOnly : s.reportOnly = true → t.reportOnly = true
  fpgaOut : s.fpgaOut <+: t.fpgaOut
  sentRear : s.sensorOutRear <+: t.sensorOutRear
  sentFront : s.sensorOutFront <+: t.sensorOutFront

theorem Quiet.trans {j k : Nat} {s t u : State} (h : Quiet j s t) (g : Quiet k t u) : Quiet (j + k) s u where
  env := by rw [g.env, h.env, List.drop_drop]
  rx := by
    have hin : t.hostIn k = (s.envTurns j).hostIn k := State.hostIn_congr (by rw [h.env, State.envTurns_env]) k
    rw [g.rx, h.rx, hin, ← State.envTurns_rx, ← State.envTurns_rx, ← State.envTurns_add, State.envTurns_rx]
  tx := g.tx.trans h.tx
  params := g.params.trans h.params
  defer := g.defer.trans h.defer
  reportOnly := g.reportOnly ∘ h.reportOnly
  fpgaOut := h.fpgaOut.trans g.fpgaOut
  sentRear := h.sentRear.trans g.sentRear
  sentFront := h.sentFront.trans g.sentFront

theorem Quiet.refl (s : State) : Quiet 0 s s where
  env := rfl
  rx := (List.append_nil _).symm
  tx := rfl
  params := rfl
  defer := rfl
  reportOnly := id
  fpgaOut := List.prefix_rfl
  sentRear := List.prefix_rfl
  sentFront := List.prefix_rfl

/-- The fields that `Quiet` speaks of. -/
def State.quietPart (s : State) :
    List (List EnvMove) × (List Byte × List Byte) × OpenParams × (Bool × Bool) × List Byte × List Byte × List Byte :=
  (s.env, (s.rx, s.tx), s.params, (s.defer, s.reportOnly), s.fpgaOut, s.sensorOutRear, s.sensorOutFront)

/-- Writes to any other field. -/
theorem Quiet.write {k : Nat} {s t u : State} (h : Quiet k s t) (e : u.quietPart = t.quietPart) : Quiet k s u := by
  simp only [State.quietPart, Prod.mk.injEq] at e
  obtain ⟨env, ⟨rx, tx⟩, params, ⟨defer, reportOnly⟩, fpgaOut, sentRear, sentFront⟩ := e
  exact ⟨env.trans h.env, rx.trans h.rx, tx.trans h.tx, params.trans h.params, defer.trans h.defer,
    fun hr => reportOnly.trans (h.reportOnly hr), fpgaOut ▸ h.fpgaOut, sentRear ▸ h.sentRear, sentFront ▸ h.sentFront⟩

theorem Quiet.setPhase {k : Nat} {s t : State} (h : Quiet k s t) (p : Phase) : Quiet k s { t with phase := p } :=
  h.write rfl

/-- RX is as the turns of the environment alone would leave it. -/
theorem Quiet.rx_eq {k : Nat} {s t : State} (h : Quiet k s t) : t.rx = (s.envTurns k).rx := by
  rw [h.rx, State.envTurns_rx]

/-- A move of the environment takes nothing back from FPGA_OUT (rule R43). -/
theorem busMove_out_grows (role : BusRole) (xfer : Option Byte) (v : BusView) (m : EnvMove) :
    v.out <+: (busMove role xfer v m).out := by
  cases m with
  | hostByte | fpgaReady => exact List.prefix_rfl
  | fpgaWrite b =>
    rw [busMove]
    split <;> exact List.prefix_rfl
  | fpgaClock b =>
    cases role with
    | unconfigured | master => exact List.prefix_rfl
    | slave =>
      cases xfer with
      | none => exact List.prefix_rfl
      | some sent =>
        rw [busMove]
        split
        · exact List.prefix_rfl
        · exact List.prefix_append _ _

/-- A turn of the environment takes nothing back from FPGA_OUT (rule R43). -/
theorem State.fpgaOut_envTurn (s : State) : s.fpgaOut <+: s.envTurn.fpgaOut := by
  have hfold : ∀ (ms : List EnvMove) (v : BusView), v.out <+: (ms.foldl (busMove s.busRole s.xfer) v).out := by
    intro ms
    induction ms with
    | nil => exact fun v => List.prefix_rfl
    | cons m ms ih => exact fun v => (busMove_out_grows _ _ v m).trans (ih _)
  exact hfold s.nextMoves { data := s.busData, done := s.xferDone, out := s.fpgaOut }

theorem Quiet.envTurn (s : State) : Quiet 1 s s.envTurn where
  env := by simp
  rx := State.envTurns_rx 1 s
  tx := rfl
  params := rfl
  defer := rfl
  reportOnly := id
  fpgaOut := s.fpgaOut_envTurn
  sentRear := List.prefix_rfl
  sentFront := List.prefix_rfl

theorem Quiet.envTurns (k : Nat) (s : State) : Quiet k s (s.envTurns k) := by
  induction k with
  | zero => exact .refl _
  | succ k ih =>
    rw [← State.envTurn_envTurns]
    exact ih.trans (.envTurn _)

/-- Driving a pin (rule R34). -/
theorem Quiet.pinSet (p : OutputPin) (l : Level) (s : State) : Quiet 1 s (s.pinSet p l) := by
  cases p <;> exact (Quiet.envTurn s).write rfl

/-- Everything an exchange with the sensors can do, whatever the chip-selects are (rules R37, R43). -/
theorem State.sensorExchange_cases (b : Byte) (s : State) :
    ∃ (outRear outFront rear front : List Byte) (d : Nat) (v : Byte), s.sensorExchange b = ({ s with
      sensorOutRear := s.sensorOutRear ++ outRear, sensorOutFront := s.sensorOutFront ++ outFront
      rearAnswers := rear, frontAnswers := front, draws := d }, v) := by
  unfold State.sensorExchange
  split
  · exact ⟨[b], [], _, _, _, _, by rw [State.rearByte_eq, List.append_nil]⟩
  · exact ⟨[], [b], _, _, _, _, by rw [State.frontByte_eq, List.append_nil]⟩
  · exact ⟨[b], [b], _, _, _, _, rfl⟩
  · exact ⟨[], [], s.rearAnswers, s.frontAnswers, _, _, by rw [List.append_nil, List.append_nil]; rfl⟩

/-- Everything a master transfer can do (rule R37). -/
theorem State.masterTransfer_cases (b : Byte) (s : State) :
    ∃ (outRear outFront rear front : List Byte) (d : Nat) (v : Byte), s.masterTransfer b = ({ s.envTurn with
      sensorOutRear := s.sensorOutRear ++ outRear, sensorOutFront := s.sensorOutFront ++ outFront
      rearAnswers := rear, frontAnswers := front, draws := d, busData := v, xferDone := true }, v) := by
  obtain ⟨outRear, outFront, rear, front, d, v, h⟩ := s.envTurn.sensorExchange_cases b
  refine ⟨outRear, outFront, rear, front, d, v, ?_⟩
  rw [State.masterTransfer, h]
  rfl

theorem Quiet.masterTransfer (b : Byte) (s : State) : Quiet 1 s (s.masterTransfer b).1 := by
  obtain ⟨outRear, outFront, rear, front, d, v, h⟩ := s.masterTransfer_cases b
  have turn := Quiet.envTurn s
  rw [h]
  exact ⟨turn.env, turn.rx, rfl, rfl, rfl, id, turn.fpgaOut, List.prefix_append _ _, List.prefix_append _ _⟩

/-- A reading (rule R221). -/
theorem Quiet.readOnce (ch : Channel) (s : State) : Quiet 5 s (Machine.readOnce ch s).1 :=
  ((((Quiet.pinSet _ _ s).trans (.masterTransfer _ _)).trans (.masterTransfer _ _)).trans (.masterTransfer _ _)).trans
    (.pinSet _ _ _)

/-- `k` rounds of the sampling loop (rule R220). -/
theorem Quiet.sampleRounds (k : Nat) (ch : Channel) (s : State) : Quiet (6 * k) s (Machine.sampleRounds k ch s) := by
  induction k generalizing s with
  | zero => exact .refl _
  | succ k ih =>
    have read : Quiet 6 s (Machine.readOnce ch (s.delay Config.tPreSample)).1 :=
      (Quiet.envTurn s).trans (.readOnce ch _)
    have round : Quiet 6 s (sampleRound ch s) := read.write rfl
    rw [Nat.mul_succ, Nat.add_comm]
    exact round.trans (ih _)

/-- A sample (rule R220). -/
theorem Quiet.sample (ch : Channel) (s : State) : Quiet 102 s (Machine.sample ch s).1 := by
  have start : Quiet 0 s s.startSample := (Quiet.refl s).write rfl
  exact start.trans (.sampleRounds 17 ch s.startSample)

theorem Quiet.sampleRear (s : State) : Quiet 102 s (Machine.sampleRear s) := by
  have sampled := Quiet.sample .rear s
  unfold Machine.sampleRear
  generalize Machine.sample .rear s = r at *
  exact sampled.write rfl

theorem Quiet.sampleFront (s : State) : Quiet 102 s (Machine.sampleFront s) := by
  have sampled := Quiet.sample .front s
  unfold Machine.sampleFront
  generalize Machine.sample .front s = r at *
  exact sampled.write rfl

/-- The steps shared by bring-up and the report-only entry (rules R243, R247). -/
theorem Quiet.takeMasterRole (s : State) : Quiet 4 s (Machine.takeMasterRole s) := by
  rw [takeMasterRole_eq]
  have driven : Quiet 3 s { s.envTurns 3 with pinAccelInit := .asserted, busRole := .master } :=
    (Quiet.envTurns 3 s).write rfl
  exact driven.trans (.envTurn _)

/-- A frame build, in every state (rule R203). -/
theorem Quiet.buildFrameWith (gate : Bool) (s : State) : Quiet 0 s (Machine.buildFrameWith gate s).1 := by
  by_cases hfiller : (gate = true ∧ s.defer = true) ∨ s.count = 0
  · rw [buildFrameWith_filler hfiller]
    exact .refl s
  · obtain ⟨hheld, hc⟩ := not_or.mp hfiller
    have hopen : gate = false ∨ s.defer = false := by
      cases gate
      · exact .inl rfl
      · exact .inr (by simpa using hheld)
    obtain ⟨cmd, d, h⟩ := buildFrameWith_takes hopen hc
    rw [h]
    exact (Quiet.refl s).write rfl

/-- A look at the hold of a transfer, complete or not (rule R204). -/
theorem holdTransfer_quiet {i : Fin 19} {s t : State} (h : holdTransfer i s = .next t) : Quiet 1 s t := by
  cases hdone : s.envTurn.xferDone with
  | false =>
    obtain rfl := Host.Outcome.next.inj ((holdTransfer_waits hdone).symm.trans h)
    exact .envTurn s
  | true =>
    obtain rfl := Host.Outcome.next.inj ((holdTransfer_done hdone).symm.trans h)
    exact (Quiet.envTurn s).write rfl

/-- `N_SEND(i)`, in every role (rules R37, R204). -/
theorem sendByte_quiet {i : Fin 19} {s t : State} (h : sendByte i s = .next t) : ∃ k, Quiet k s t := by
  cases hr : s.busRole with
  | unconfigured => simp [sendByte, hr] at h
  | master =>
    simp only [sendByte, hr, Host.Outcome.next.injEq] at h
    subst h
    exact ⟨1, (Quiet.masterTransfer _ s).write rfl⟩
  | slave =>
    cases hx : s.xfer with
    | none =>
      rw [sendByte_begin hr hx] at h
      have begun : Quiet 1 s (s.beginTransfer (s.frameBuf.get i)) :=
        (Quiet.envTurn s).write rfl
      exact ⟨2, begun.trans (holdTransfer_quiet h)⟩
    | some b =>
      rw [sendByte_hold hr hx] at h
      exact ⟨1, holdTransfer_quiet h⟩

/-- Every step of a phase that does not poll (rules R160, R165). -/
theorem step_quiet {s t : State} (hp : s.phase.polls = false) (h : step s = .next t) : ∃ k, Quiet k s t := by
  cases step_outcome h with
  | idlePins _ ht =>
    subst ht
    exact ⟨4, (Quiet.envTurns 4 s).write rfl⟩
  | checkReady _ ht =>
    subst ht
    exact ⟨1, (Quiet.envTurn s).write rfl⟩
  | init _ ht =>
    subst ht
    exact ⟨4, (Quiet.takeMasterRole s).write rfl⟩
  | baseline _ _ ht =>
    subst ht
    exact ⟨204, ((Quiet.sampleRear s).trans (.sampleFront _)).setPhase _⟩
  | finish _ ht =>
    subst ht
    have driven : Quiet 3 s { s.envTurns 3 with pinAccelInit := .deasserted, busRole := .slave } :=
      (Quiet.envTurns 3 s).write rfl
    exact ⟨4, (driven.trans (.envTurn _)).write rfl⟩
  | waits _ _ ht =>
    subst ht
    exact ⟨1, .envTurn s⟩
  | builds _ _ u f hf ht =>
    have build := Quiet.buildFrameWith s.params.deferGateEffective { s.envTurns 2 with busData := 0x00 }
    rw [hf] at build
    subst ht
    have cleared : Quiet 2 s { s.envTurns 2 with busData := 0x00 } := (Quiet.envTurns 2 s).write rfl
    exact ⟨2, (cleared.trans build).write rfl⟩
  | sends i _ ht => exact sendByte_quiet ht
  | enters _ ht =>
    subst ht
    have flag : Quiet 0 s s.setReportOnly := { Quiet.refl s with reportOnly := fun _ => rfl }
    exact ⟨4, (flag.trans (.takeMasterRole _)).write rfl⟩
  | samplesRear _ _ ht =>
    subst ht
    exact ⟨102, (Quiet.sampleRear s).setPhase _⟩
  | samplesFront _ _ ht =>
    subst ht
    exact ⟨102, (Quiet.sampleFront s).setPhase _⟩
  | pollsEmpty hp' | pollsOne hp' => exact absurd (hp.symm.trans hp') (by decide)

/-- Settles O11: each such step is quiet. -/
theorem otherPhasesFetchNothing : Obligations.OtherPhasesFetchNothing := by
  intro s t hp h
  obtain ⟨k, quiet⟩ := step_quiet hp h
  exact ⟨quiet.tx, k, quiet.env, quiet.rx_eq⟩

/-- A growing list, as the obligations write it. -/
theorem exists_append_of_prefix {l l' : List Byte} (h : l <+: l') : ∃ m, l' = l ++ m := by
  obtain ⟨m, rfl⟩ := h
  exact ⟨m, rfl⟩

/-- What an instruction sends stands behind what was sent before (rule R42). -/
theorem InstrOutcome.tx_grows {i : Instr} {s t : State} (h : InstrOutcome i s t) : s.tx <+: t.tx := by
  obtain htx | ⟨payload, htx, -⟩ := h.response
  · rw [htx]
  · rw [htx, List.append_assoc]
    exact List.prefix_append _ _

/-- Settles O14: outside a poll by what every such step leaves alone, in a poll by the frame of the instruction. -/
theorem oneWayState : Obligations.OneWayState := by
  intro s t h
  cases hp : s.phase.polls with
  | false =>
    obtain ⟨k, quiet⟩ := step_quiet hp h
    exact ⟨quiet.params, fun hd => quiet.defer.trans hd, quiet.reportOnly, ⟨[], by simp [quiet.tx]⟩,
      exists_append_of_prefix quiet.fpgaOut, exists_append_of_prefix quiet.sentRear,
      exists_append_of_prefix quiet.sentFront⟩
  | true =>
    cases poll_outcome hp h with
    | pollsEmpty _ _ ht =>
      subst ht
      exact ⟨rfl, id, id, ⟨[], by simp⟩, exists_append_of_prefix s.fpgaOut_envTurn, ⟨[], by simp⟩, [], by simp⟩
    | pollsOne _ b rest _ ht =>
      have hframe := ht.frame
      obtain ⟨k, -, -, -, -, hout⟩ := ht.turns
      have hgrows : s.fpgaOut <+: t.fpgaOut := by
        rw [hout]
        exact s.fpgaOut_envTurn.trans (Quiet.envTurns k { s.envTurn with rx := rest }).fpgaOut
      refine ⟨by rw [hframe]; rfl, fun hd => ?_, fun hr => by rw [hframe]; exact hr,
        exists_append_of_prefix ht.tx_grows, exists_append_of_prefix hgrows, ⟨[], by rw [hframe]; simp⟩, [], by rw [hframe]; simp⟩
      obtain hkept | ⟨-, hcleared⟩ := ht.defer
      · exact hkept.trans hd
      · exact hcleared
    | idlePins hp' | checkReady hp' | init hp' | baseline hp' | finish hp' | waits hp' | builds hp' | sends _ hp'
    | enters hp' | samplesRear hp' | samplesFront hp' => simp [hp', Phase.polls] at hp

end Sys2Proof.Machine
end

section
/-! The Accelerometer Sampler (rules R220 to R224): the average, its range, and the sampling phases (rules R244, R249). -/

namespace Sys2Proof.Machine

/-! ### What a sample begins with -/

theorem State.startSample_envTurns (k : Nat) (s : State) :
    s.startSample.envTurns k = (s.envTurns k).startSample := by
  induction k generalizing s with
  | zero => rfl
  | succ k ih => exact ih s.envTurn

theorem State.startSample_sensorOut (ch : Channel) (s : State) : s.startSample.sensorOut ch = s.sensorOut ch := by
  cases ch <;> rfl

theorem State.startSample_answers (ch : Channel) (s : State) : s.startSample.answers ch = s.answers ch := by
  cases ch <;> rfl

theorem State.startSample_select (ch : Channel) (s : State) : s.startSample.select ch = s.select ch := by
  cases ch <;> rfl

/-- What a sample's rounds leave, with the environment's turns as a run of their own from the state before it. -/
theorem Sampled.frame_envTurns {ch : Channel} {k j m : Nat} {out : List Byte} {v : Half} {s t : State}
    (h : Sampled ch k out j m v s.startSample t) (hm : s.busRole = .master) : t = { s.envTurns k with
      busData := t.busData, xferDone := t.xferDone
      sensorOutRear := t.sensorOutRear, sensorOutFront := t.sensorOutFront
      rearAnswers := t.rearAnswers, frontAnswers := t.frontAnswers
      draws := t.draws, pinCsRear := t.pinCsRear
      pinCsFront := t.pinCsFront, sum := t.sum, n := t.n } := by
  have hrx : (s.envTurns k).rx = t.rx := by rw [h.rx, State.startSample_envTurns]; rfl
  have hready : (s.envTurns k).pinFpgaReady = t.pinFpgaReady := by rw [h.ready, State.startSample_envTurns]; rfl
  have henv : (s.envTurns k).env = t.env := by rw [h.env, State.envTurns_env]; rfl
  have hout : (s.envTurns k).fpgaOut = s.fpgaOut := (State.envTurns_bus_of_not_slave k (by simp [hm])).2.2
  rw [State.envTurns_eq k s, henv, hrx, hready, hout]
  exact h.frame

/-! ### The average -/

theorem State.partSum_17_toNat (ch : Channel) (s : State) : (s.partSum ch 17).toNat = s.sampleSum ch :=
  (State.partSum_toNat ch s 17 (le_refl _)).1

/-- The quotient is that of the readings' contributions (rule R223). -/
theorem State.partSum_average (ch : Channel) (s : State) :
    (s.partSum ch 17 / 17#16).toNat = s.sampleSum ch / 17 := by
  rw [BitVec.toNat_udiv, State.partSum_17_toNat]
  rfl

/-- Settles O50: what 17 rounds leave, from a sample's beginning on. -/
theorem sampleAverages : Obligations.SampleAverages := by
  intro ch s hm ho
  obtain ⟨h, hselect, hvalue⟩ := Sampled.sample hm ho
  have hsum : (sample ch s).1.sum = s.partSum ch 17 := by
    rw [h.total]
    exact BitVec.zero_add _
  exact ⟨by rw [hvalue, State.partSum_average], by rw [h.sent, State.startSample_sensorOut],
    by rw [h.sentOther, State.startSample_sensorOut], by rw [h.answers, State.startSample_answers],
    by rw [h.answersOther, State.startSample_answers], hselect, by rw [h.selectOther, State.startSample_select, ho],
    h.count, by rw [hsum, State.partSum_17_toNat], by rw [h.draws, State.startSample_answers]; rfl, h.frame_envTurns hm⟩

/-! ### The range -/

theorem State.pinSet_sum (p : OutputPin) (l : Level) (s : State) : (s.pinSet p l).sum = s.sum := by
  cases p <;> rfl

theorem State.masterTransfer_sum (b : Byte) (s : State) : (s.masterTransfer b).1.sum = s.sum := by
  obtain ⟨outRear, outFront, rear, front, d, v, h⟩ := s.masterTransfer_cases b
  rw [h]
  rfl

/-- A reading leaves the sampler's sum alone, in every state. -/
theorem readOnce_sum (ch : Channel) (s : State) : (readOnce ch s).1.sum = s.sum := by
  simp only [readOnce, State.pinSet_sum, State.masterTransfer_sum]

/-- A round adds at most 0x07FF (rules R220, R224). -/
theorem sampleRound_sum_le (ch : Channel) (s : State) : (sampleRound ch s).sum.toNat ≤ s.sum.toNat + 2047 := by
  have hstep : (sampleRound ch s).sum = s.sum + contribution (readOnce ch (s.delay Config.tPreSample)).2 :=
    congrArg (· + contribution (readOnce ch (s.delay Config.tPreSample)).2) (readOnce_sum ch _)
  have hle := contribution_toNat (readOnce ch (s.delay Config.tPreSample)).2
  have hlt := (readOnce ch (s.delay Config.tPreSample)).2.isLt
  rw [hstep, BitVec.toNat_add]
  omega

theorem sampleRounds_sum_le (k : Nat) (ch : Channel) (s : State) :
    (sampleRounds k ch s).sum.toNat ≤ s.sum.toNat + 2047 * k := by
  induction k generalizing s with
  | zero => exact le_refl _
  | succ k ih =>
    have hround := sampleRound_sum_le ch s
    have hrest := ih (sampleRound ch s)
    rw [sampleRounds]
    omega

/-- The bound holds in every state, whatever the sensors answer and the chip-selects are (rule R224). -/
theorem sample_le (ch : Channel) (s : State) : (sample ch s).2.toNat ≤ 0x07FF := by
  have hsum := sampleRounds_sum_le 17 ch s.startSample
  have hvalue : (sample ch s).2.toNat = (sampleRounds 17 ch s.startSample).sum.toNat / 17 := BitVec.toNat_udiv
  have hzero : s.startSample.sum.toNat = 0 := rfl
  rw [hvalue]
  omega

/-- A sum of `k` numbers of at most 2047 reaches its bound only with each of them at 2047. -/
theorem sum_map_range_eq_iff {f : Nat → Nat} (hf : ∀ i, f i ≤ 2047) (k : Nat) :
    ((List.range k).map f).sum ≤ 2047 * k ∧
      (((List.range k).map f).sum = 2047 * k ↔ ∀ i < k, f i = 2047) := by
  induction k with
  | zero => simp
  | succ k ih =>
    obtain ⟨hle, hiff⟩ := ih
    have hk := hf k
    rw [List.range_succ, List.map_append, List.sum_append, List.map_singleton, List.sum_singleton]
    refine ⟨by omega, ?_⟩
    rw [Nat.forall_lt_succ_right, ← hiff]
    omega

/-- Settles O51: the bound, and when all 17 contributions reach it. -/
theorem sampleRange : Obligations.SampleRange := by
  refine ⟨sample_le, fun ch s hm ho => ?_⟩
  have hmax : ∀ k, (s.reading ch k).toNat / 32 ≤ 2047 := fun k => by
    have := (s.reading ch k).isLt
    omega
  obtain ⟨hle, hiff⟩ := sum_map_range_eq_iff hmax 17
  have hvalue := (sampleAverages ch s hm ho).1
  have htop : (0x07FF : Half).toNat = 2047 := rfl
  unfold State.sampleSum at hvalue
  rw [← hiff, ← BitVec.toNat_inj, hvalue, htop]
  omega

/-! ### The sampling phases -/

theorem SampleLeaves.average {ch : Channel} {v : Half} {s t : State} (h : SampleLeaves ch v s t) :
    v.toNat = s.sampleSum ch / 17 := by
  rw [h.value, State.partSum_average]

/-- Settles O52, one sensor after the other. -/
theorem reportLoopSamples : Obligations.ReportLoopSamples := by
  refine ⟨fun s hp hm ho => ?_, fun s hp hm ho => ?_⟩
  · obtain ⟨h, hfront⟩ := SampleLeaves.rear hm ho
    refine ⟨{ sampleRear s with phase := .pPollA }, by rw [step_pSampleRear hp, reportRear, if_pos hm], ?_⟩
    generalize sampleRear s = t at *
    exact ⟨h.average, hfront, rfl, h.rx, h.keeps.tx, h.keeps.busRole.trans hm, h.keeps.reportOnly, h.selected,
      h.selectedOther, h.sentOther⟩
  · obtain ⟨h, hrear⟩ := SampleLeaves.front hm ho
    refine ⟨{ sampleFront s with phase := .pPollB }, by rw [step_pSampleFront hp, reportFront, if_pos hm], ?_⟩
    generalize sampleFront s = t at *
    exact ⟨h.average, hrear, rfl, h.rx, h.keeps.tx, h.keeps.busRole.trans hm, h.keeps.reportOnly, h.selectedOther,
      h.selected, h.sentOther⟩

/-- A sample depends on its sensor's answers and on the free bytes still to come. -/
theorem State.sampleSum_congr {ch : Channel} {s t : State} (ha : t.answers ch = s.answers ch) (hd : t.draws = s.draws) :
    t.sampleSum ch = s.sampleSum ch := by
  simp only [State.sampleSum, State.reading, State.answer, ha, hd]

/-- What the rear sample leaves to the front one (rule R244): its answers, and the free bytes the rear one did not take. -/
theorem sampleRear_leaves_front {s : State} (hm : s.busRole = .master) (ho : s.pinCsFront = .deasserted) :
    (sampleRear s).frontAnswers = s.frontAnswers ∧
      (sampleRear s).draws = s.draws + (51 - s.rearAnswers.length) := by
  obtain ⟨h, -⟩ := Sampled.sample (ch := .rear) hm ho
  have hanswers := h.answersOther
  have hdraws := h.draws
  unfold sampleRear
  generalize sample .rear s = r at *
  exact ⟨hanswers, hdraws⟩

/-- The two samples of the baseline, one after the other (rule R244). -/
theorem sampleBoth_leaves {s : State} (hm : s.busRole = .master) (hfront : s.pinCsFront = .deasserted) :
    SampleLeaves .rear (sampleRear s).accelRear s (sampleRear s) ∧
      SampleLeaves .front (sampleFront (sampleRear s)).accelFront (sampleRear s) (sampleFront (sampleRear s)) ∧
      (sampleFront (sampleRear s)).accelRear = (sampleRear s).accelRear := by
  obtain ⟨h, -⟩ := SampleLeaves.rear hm hfront
  exact ⟨h, SampleLeaves.front (h.keeps.busRole.trans hm) h.selected⟩

/-- Settles O53: the front sample begins where the rear one ended. -/
theorem baselineSamplesBoth : Obligations.BaselineSamplesBoth := by
  intro s hp hm _ hfront
  obtain ⟨h, h', hkept⟩ := sampleBoth_leaves hm hfront
  obtain ⟨hanswers, hdraws⟩ := sampleRear_leaves_front hm hfront
  have hkeeps := h.keeps.trans h'.keeps
  have hrx := ((Quiet.sampleRear s).trans (.sampleFront _)).rx_eq
  have hsum : (sampleRear s).sampleSum .front =
      State.sampleSum .front { s with draws := s.draws + (51 - s.rearAnswers.length) } :=
    State.sampleSum_congr hanswers hdraws
  have haverage := h'.average
  rw [hsum] at haverage
  refine ⟨{ sampleFront (sampleRear s) with phase := .bFinish }, by rw [step_bBaseline hp, baseline, if_pos hm], ?_⟩
  have hrearAverage := h.average
  rw [← hkept] at hrearAverage
  generalize sampleFront (sampleRear s) = t at *
  exact ⟨hrearAverage, haverage, rfl, hkeeps.busRole.trans hm, hrx, hkeeps.tx, hkeeps.reportOnly, hkeeps.count,
    hkeeps.init, hkeeps.enable⟩

end Sys2Proof.Machine
end

section
/-! Power-on (rule R46), and the invariant of a run from step to step (rules R27, R47). -/

namespace Sys2Proof.Machine

/-- Settles O4: each power-on value is the one `State.resetWith` writes down. -/
theorem resetIsPowerOn : Obligations.ResetIsPowerOn :=
  ⟨fun _ => ⟨rfl, rfl, rfl, rfl, rfl, rfl, rfl, rfl, rfl, rfl, rfl, fun _ => rfl, rfl, rfl, rfl, rfl, rfl, rfl⟩, rfl⟩

/-- An empty queue meets the queue invariants, wherever its two indices meet (rule R27). -/
theorem QueueInv.of_empty {s : State} (hm : s.qmem.wf) (hc : s.count = 0) (ht : s.tail = s.head) : QueueInv s where
  memWf := hm
  countLe := by omega
  tailEq := by
    apply Fin.ext
    have := s.head.isLt
    rw [ht, hc, State.slotAt_val]
    omega
  written := fun k hk => by omega

/-- No turn of the environment and no write to BUSDATA touches the queue. -/
theorem QueueInv.envTurns_busData {s : State} (h : QueueInv s) (k : Nat) (b : Byte) :
    QueueInv { s.envTurns k with busData := b } :=
  h.congr (State.envTurns_qmem k s) (State.envTurns_count k s) (State.envTurns_head k s) (State.envTurns_tail k s)

/-- Settles O5: at power-on the queue is empty, no pin is constrained yet, and no stream holds a byte. -/
theorem resetMeetsInv : Obligations.ResetMeetsInv := by
  intro p env rear front
  refine ⟨?_, ⟨⟨[], rfl⟩, fun i hi => nomatch hi⟩, ⟨0, rfl⟩, 0, rfl⟩
  exact {
    queue := .of_empty ⟨List.Pairwise.nil, fun _ h => nomatch h⟩ rfl rfl
    flag := rfl
    role := rfl
    rear := .inl rfl
    front := .inl rfl
    selects := fun h => absurd rfl h
    initPin := fun l h => nomatch h
    enable := fun h => absurd rfl h
    transfer := fun b h => nomatch h }

/-! ### The control registers -/

/-- Control registers that are in order at the start of `p` are so at the start of `q` too (rule R47). -/
structure Phase.LeadsTo (p q : Phase) : Prop where
  driven : p ≠ .bIdlePins
  loop : q.inReportLoop = p.inReportLoop
  role : ∀ r, p.roleOk r → q.roleOk r
  level : ∀ l, q.initLevel = some l → p.initLevel = some l
  mode : q.mode = .bringup → p.mode = .bringup

/-- The boot-time choice (rule R242). -/
theorem Phase.LeadsTo.of_checkReady (c : Prop) [Decidable c] :
    Phase.LeadsTo .bCheckReady (if c then .bInit else .eEnter) := by
  split
  · exact ⟨by decide, rfl, fun _ => id, fun _ => id, id⟩
  · exact ⟨by decide, rfl, fun r (hr : r = .unconfigured) (he : r = .master) => (nomatch hr.symm.trans he),
      fun _ => id, fun _ => rfl⟩

/-- The exchange loop (rules R201 to R205). -/
theorem Phase.LeadsTo.of_wait (i : Fin 19) : Phase.LeadsTo .nWait (.nSend i) :=
  ⟨by decide, rfl, fun _ => id, fun _ => id, id⟩

theorem Phase.LeadsTo.of_send (i j : Fin 19) : Phase.LeadsTo (.nSend i) (.nSend j) :=
  ⟨(nomatch ·), rfl, fun _ => id, fun _ => id, id⟩

theorem Phase.LeadsTo.of_afterSend (i : Fin 19) :
    Phase.LeadsTo (.nSend i) (if i.val = 18 then .nPoll else .nSend (i + 1)) := by
  split
  · exact ⟨(nomatch ·), rfl, fun _ => id, fun _ => id, id⟩
  · exact .of_send i (i + 1)

theorem Phase.ne_nSend_of_polls {p : Phase} (hp : p.polls = true) (i : Fin 19) : p ≠ .nSend i := by
  rintro rfl
  cases hp

theorem Phase.ne_bIdlePins_of_polls {p : Phase} (hp : p.polls = true) : p ≠ .bIdlePins := by
  rintro rfl
  cases hp

/-- A poll that returns (rules R205, R249). -/
theorem Phase.LeadsTo.of_poll {p : Phase} (hp : p.polls = true) : Phase.LeadsTo p p.afterPoll := by
  cases p with
  | nPoll | pPollA | pPollB => exact ⟨by decide, rfl, fun _ => id, fun _ => id, id⟩
  | _ => cases hp

/-- SWITCH (rules R175, R251): the poll that takes it is the exchange loop's. -/
theorem Phase.LeadsTo.of_switch {p : Phase} (hp : p.polls = true) (hloop : p.inReportLoop = false) :
    Phase.LeadsTo p .eEnter := by
  cases p with
  | nPoll =>
    exact ⟨by decide, rfl, fun r (hr : r = .slave) (he : r = .master) => (nomatch hr.symm.trans he),
      fun _ => id, fun h => nomatch h⟩
  | pPollA | pPollB => cases hloop
  | _ => cases hp

/-- The control registers: the mode flag, the bus role and the output pins. -/
def State.controlPart (s : State) : (Bool × BusRole) × (Level × Level) × Level × Level :=
  ((s.reportOnly, s.busRole), (s.pinAccelInit, s.pinFpgaEnable), s.pinCsRear, s.pinCsFront)

/-- A step that writes no control register keeps the invariant, if the rest is in order. -/
theorem Inv.stay {s t : State} (h : Inv s) (hp : s.phase.LeadsTo t.phase) (hc : t.controlPart = s.controlPart)
    (queue : QueueInv t) (rear : readingOk t.params t.accelRear) (front : readingOk t.params t.accelFront)
    (transfer : transferOk t) : Inv t := by
  simp only [State.controlPart, Prod.mk.injEq] at hc
  obtain ⟨⟨hflag, hrole⟩, ⟨hinit, henable⟩, hrear, hfront⟩ := hc
  have hselects := h.selects hp.driven
  obtain ⟨hslave, hbringup⟩ := h.enable hp.driven
  exact {
    queue := queue
    flag := by rw [hflag, hp.loop, h.flag]
    role := by rw [hrole]; exact hp.role _ h.role
    rear := rear
    front := front
    selects := fun _ => by rwa [hrear, hfront]
    initPin := fun l hl => by rw [hinit]; exact h.initPin l (hp.level l hl)
    enable := fun _ => by rw [hrole, henable]; exact ⟨hslave, fun hm => hbringup (hp.mode hm)⟩
    transfer := transfer }

/-- Outside `N_SEND(i)` no transfer is in progress. -/
theorem Inv.xfer_eq_none {s : State} (h : Inv s) (hp : ∀ i, s.phase ≠ .nSend i) : s.xfer = none := by
  cases hx : s.xfer with
  | none => rfl
  | some b =>
    obtain ⟨-, i, hi, -⟩ := h.transfer b hx
    exact absurd hi (hp i)

theorem transferOk_of_none {s : State} (h : s.xfer = none) : transferOk s := by
  intro b hb
  rw [h] at hb
  cases hb

/-! ### The steps that write control registers -/

/-- `B_IDLE_PINS` (rule R241). -/
theorem Inv.after_idlePins {s : State} (h : Inv s) (hp : s.phase = .bIdlePins) :
    Inv { s.pinned 4 .deasserted .deasserted .deasserted .deasserted with phase := .bCheckReady } := by
  have hflag := h.flag
  have hrole := h.role
  have hx := h.xfer_eq_none (by simp [hp])
  rw [hp] at hflag hrole
  exact {
    queue := h.queue.congr (State.envTurns_qmem 4 s) (State.envTurns_count 4 s) (State.envTurns_head 4 s)
      (State.envTurns_tail 4 s)
    flag := by simp [State.pinned, hflag, Phase.inReportLoop]
    role := by simpa [State.pinned, Phase.roleOk] using hrole
    rear := by simpa [State.pinned] using h.rear
    front := by simpa [State.pinned] using h.front
    selects := fun _ => ⟨rfl, rfl⟩
    initPin := fun _ hl => Option.some.inj hl
    enable := fun _ => ⟨fun hs => by simp [State.pinned, show s.busRole = .unconfigured from hrole] at hs, fun _ => rfl⟩
    transfer := transferOk_of_none (by simp [State.pinned, hx]) }

/-- `B_INIT` (rule R243). -/
theorem Inv.after_init {s : State} (h : Inv s) (hp : s.phase = .bInit) :
    Inv { takeMasterRole s with phase := .bBaseline } := by
  have hflag := h.flag
  have hne : s.phase ≠ .bIdlePins := by simp [hp]
  have hx := h.xfer_eq_none (by simp [hp])
  rw [hp] at hflag
  rw [takeMasterRole_frame]
  exact {
    queue := h.queue.congr rfl rfl rfl rfl
    flag := hflag
    role := rfl
    rear := h.rear
    front := h.front
    selects := fun _ => h.selects hne
    initPin := fun _ hl => Option.some.inj hl
    enable := fun _ => ⟨(nomatch ·), fun _ => (h.enable hne).2 (by rw [hp]; rfl)⟩
    transfer := transferOk_of_none hx }

/-- `B_FINISH` (rule R245). -/
theorem Inv.after_finish {s : State} (h : Inv s) (hp : s.phase = .bFinish) :
    Inv { State.envTurn { s.envTurns 3 with pinAccelInit := .deasserted, busRole := .slave } with
      pinFpgaEnable := .asserted, phase := .nWait } := by
  have hflag := h.flag
  have hne : s.phase ≠ .bIdlePins := by simp [hp]
  have hx := h.xfer_eq_none (by simp [hp])
  rw [hp] at hflag
  rw [takeSlaveRole_frame]
  exact {
    queue := h.queue.congr rfl rfl rfl rfl
    flag := hflag
    role := rfl
    rear := h.rear
    front := h.front
    selects := fun _ => h.selects hne
    initPin := fun _ hl => Option.some.inj hl
    enable := fun _ => ⟨fun _ => rfl, fun hm => nomatch hm⟩
    transfer := transferOk_of_none hx }

/-- `E_ENTER` (rules R247, R248). -/
theorem Inv.after_enter {s : State} (h : Inv s) (hp : s.phase = .eEnter) :
    Inv { takeMasterRole s.setReportOnly with phase := .pSampleRear } := by
  have hne : s.phase ≠ .bIdlePins := by simp [hp]
  have hx := h.xfer_eq_none (by simp [hp])
  rw [takeMasterRole_frame]
  exact {
    queue := h.queue.congr rfl rfl rfl rfl
    flag := rfl
    role := rfl
    rear := h.rear
    front := h.front
    selects := fun _ => h.selects hne
    initPin := fun _ hl => Option.some.inj hl
    enable := fun _ => ⟨(nomatch ·), fun hm => nomatch hm⟩
    transfer := transferOk_of_none hx }

/-! ### The other steps -/

/-- A build of a frame, from a state of a run: the frame has its form, and of the state only the queue's front may have moved
(rule R203). -/
theorem buildFrameWith_frame {gate : Bool} {s u : State} {f : Frame} (hq : QueueInv s)
    (h : buildFrameWith gate s = (u, f)) :
    QueueInv u ∧ (∃ c, f = frameOf c) ∧ u = { s with head := u.head, count := u.count } := by
  obtain he | ⟨cmd, -, -, hq', he⟩ := buildFrameWith_cases gate hq
  · obtain ⟨rfl, rfl⟩ := Prod.mk.inj (he.symm.trans h)
    exact ⟨hq, ⟨_, rfl⟩, rfl⟩
  · obtain ⟨rfl, rfl⟩ := Prod.mk.inj (he.symm.trans h)
    exact ⟨hq', ⟨_, rfl⟩, rfl⟩

/-- `N_WAIT` on the sentinel (rules R201 to R203). -/
theorem Inv.after_build {s u : State} {f : Frame} (h : Inv s) (hp : s.phase = .nWait)
    (hbuild : buildFrameWith s.params.deferGateEffective { s.envTurns 2 with busData := 0x00 } = (u, f)) :
    Inv { u with frameBuf := f, phase := .nSend 0 } := by
  obtain ⟨hq', -, hu⟩ := buildFrameWith_frame (h.queue.envTurns_busData 2 0x00) hbuild
  have hx : u.xfer = none := by
    rw [hu]
    exact (State.envTurns_xfer 2 s).trans (h.xfer_eq_none (by simp [hp]))
  have hpu : s.phase.LeadsTo (.nSend 0) := by
    rw [hp]
    exact .of_wait 0
  refine h.stay hpu ?_ (hq'.congr rfl rfl rfl rfl) ?_ ?_ (transferOk_of_none hx)
  · rw [hu]
    simp [State.controlPart]
  · rw [hu]
    simpa using h.rear
  · rw [hu]
    simpa using h.front

/-- `N_SEND(i)` (rule R204): the transfer stays that of frame byte `i`, or ends. -/
theorem Inv.after_send {s t : State} {i : Fin 19} (h : Inv s) (hp : s.phase = .nSend i) (hstep : step s = .next t) :
    Inv t := by
  obtain ⟨hmoves, k, hframe⟩ := h.step_send hp hstep
  have hpt : s.phase.LeadsTo t.phase := by
    rw [hp]
    obtain ⟨ht, -⟩ | ⟨ht, -⟩ := hmoves
    · rw [ht]
      exact .of_afterSend i
    · rw [ht]
      exact .of_send i i
  have hcontrol : t.controlPart = s.controlPart := by rw [hframe]; simp [State.controlPart]
  have hqueue : QueueInv t := by
    rw [hframe]
    exact (h.queue.envTurns_busData k 0x00).congr rfl rfl rfl rfl
  have hrear : readingOk t.params t.accelRear := by rw [hframe]; simpa using h.rear
  have hfront : readingOk t.params t.accelFront := by rw [hframe]; simpa using h.front
  have hbuf : t.frameBuf = s.frameBuf := by rw [hframe]; exact State.envTurns_frameBuf k s
  refine h.stay hpt hcontrol hqueue hrear hfront ?_
  obtain ⟨-, hx, -⟩ | ⟨ht, hx, hdone, -⟩ := hmoves
  · exact transferOk_of_none hx
  · intro b hb
    rw [hx] at hb
    exact ⟨hdone, i, ht, by rw [hbuf, ← Option.some.inj hb]⟩

/-- The two samples of `B_BASELINE` (rules R244, R224). -/
theorem Inv.after_baseline {s : State} (h : Inv s) (hp : s.phase = .bBaseline) (hm : s.busRole = .master) :
    Inv { sampleFront (sampleRear s) with phase := .bFinish } := by
  obtain ⟨-, hfront⟩ := h.selects (by simp [hp])
  obtain ⟨hr, hf, hkept⟩ := sampleBoth_leaves hm hfront
  have hkeeps := hr.keeps.trans hf.keeps
  have hselects := h.selects (by simp [hp])
  have hx := h.xfer_eq_none (by simp [hp])
  have hrange := hr.range
  rw [← hkept] at hrange
  have hselected : (sampleFront (sampleRear s)).pinCsFront = .deasserted := hf.selected
  have hother : (sampleFront (sampleRear s)).pinCsRear = .deasserted := hf.selectedOther
  generalize sampleFront (sampleRear s) = t at *
  have hpt : s.phase.LeadsTo .bFinish := by
    rw [hp]
    exact ⟨by decide, rfl, fun _ => id, fun _ => id, id⟩
  refine h.stay hpt ?_ (h.queue.congr hkeeps.qmem hkeeps.count hkeeps.head hkeeps.tail) (.inr hrange) (.inr hf.range)
    (transferOk_of_none (hkeeps.xfer.trans hx))
  simp [State.controlPart, hkeeps.reportOnly, hkeeps.busRole, hkeeps.init, hkeeps.enable, hother, hselected, hselects]

/-- A sampling phase of the report-only loop (rules R249, R224): `t` is what its sample leaves. -/
theorem Inv.after_sample {ch : Channel} {v : Half} {s t : State} {q : Phase} (h : Inv s)
    (leaves : SampleLeaves ch v s t) (quiet : Quiet 102 s t) (hpt : s.phase.LeadsTo q) (hp : ∀ i, s.phase ≠ .nSend i)
    (rear : readingOk s.params t.accelRear) (front : readingOk s.params t.accelFront) : Inv { t with phase := q } := by
  have hkeeps := leaves.keeps
  obtain ⟨hrear, hfront⟩ := h.selects hpt.driven
  have hselects : t.pinCsRear = .deasserted ∧ t.pinCsFront = .deasserted := by
    cases ch
    · exact ⟨leaves.selected, leaves.selectedOther⟩
    · exact ⟨leaves.selectedOther, leaves.selected⟩
  rw [← quiet.params] at rear front
  refine h.stay hpt ?_ (h.queue.congr hkeeps.qmem hkeeps.count hkeeps.head hkeeps.tail) rear front
    (transferOk_of_none (hkeeps.xfer.trans (h.xfer_eq_none hp)))
  simp [State.controlPart, hkeeps.reportOnly, hkeeps.busRole, hkeeps.init, hkeeps.enable, hselects, hrear, hfront]

/-- `P_SAMPLE_REAR` (rule R249). -/
theorem Inv.after_reportRear {s : State} (h : Inv s) (hp : s.phase = .pSampleRear) (hm : s.busRole = .master) :
    Inv { sampleRear s with phase := .pPollA } := by
  obtain ⟨leaves, hkept⟩ := SampleLeaves.rear hm (h.selects (by simp [hp])).2
  exact h.after_sample leaves (.sampleRear s) (by rw [hp]; exact ⟨by decide, rfl, fun _ => id, fun _ => id, id⟩)
    (by simp [hp]) (.inr leaves.range) (by rw [hkept]; exact h.front)

/-- `P_SAMPLE_FRONT` (rule R249). -/
theorem Inv.after_reportFront {s : State} (h : Inv s) (hp : s.phase = .pSampleFront) (hm : s.busRole = .master) :
    Inv { sampleFront s with phase := .pPollB } := by
  obtain ⟨leaves, hkept⟩ := SampleLeaves.front hm (h.selects (by simp [hp])).1
  exact h.after_sample leaves (.sampleFront s) (by rw [hp]; exact ⟨by decide, rfl, fun _ => id, fun _ => id, id⟩)
    (by simp [hp]) (by rw [hkept]; exact h.rear) (.inr leaves.range)

/-- An instruction keeps the queue invariants (rule R27): what it stores, it appends. -/
theorem InstrOutcome.queueInv {i : Instr} {s t : State} (h : InstrOutcome i s t) (hq : QueueInv s) : QueueInv t := by
  have hhead : t.head = s.head := by
    rw [h.frame]
  obtain ⟨hm, htail, hcount⟩ | ⟨-, -, hroom, hm, htail, hcount⟩ := h.queue
  · exact hq.congr hm hcount hhead htail
  · exact (hq.storeTail hroom t.bufCommand).1.congr hm hcount hhead htail

/-- An instruction at a polling phase (rules R160, R280). -/
theorem Inv.after_instr {i : Instr} {s t : State} (h : Inv s) (hp : s.phase.polls = true) (ht : InstrOutcome i s t) :
    Inv t := by
  have hx : s.xfer = none := h.xfer_eq_none (Phase.ne_nSend_of_polls hp)
  have hpt : s.phase.LeadsTo t.phase := by
    obtain he | ⟨-, hr, he⟩ := ht.phase
    · rw [he]
      exact .of_poll hp
    · rw [he]
      exact .of_switch hp (h.flag.symm.trans hr)
  have hframe := ht.frame
  refine h.stay hpt ?_ (ht.queueInv h.queue) ?_ ?_ (transferOk_of_none ?_)
  · rw [hframe]
    rfl
  · rw [hframe]
    exact h.rear
  · rw [hframe]
    exact h.front
  · rw [hframe]
    exact hx

/-- Outside `N_SEND(i)` a turn of the environment alone keeps the invariant, and so does a write to RX. -/
theorem Inv.envTurn_rx {s : State} (h : Inv s) (hp : ∀ i, s.phase ≠ .nSend i) (hne : s.phase ≠ .bIdlePins)
    (rx : List Byte) : Inv { s.envTurn with rx := rx } :=
  h.stay ⟨hne, rfl, fun _ => id, fun _ => id, id⟩ rfl (h.queue.congr rfl rfl rfl rfl) h.rear h.front
    (transferOk_of_none (h.xfer_eq_none hp))

/-- Settles O6: the invariant over the ways a step can end. -/
theorem stepKeepsInv : Obligations.StepKeepsInv := by
  intro s t h hstep
  cases step_outcome hstep with
  | idlePins hp ht => exact ht ▸ h.after_idlePins hp
  | init hp ht => exact ht ▸ h.after_init hp
  | finish hp ht => exact ht ▸ h.after_finish hp
  | enters hp ht => exact ht ▸ h.after_enter hp
  | baseline hp hm ht => exact ht ▸ h.after_baseline hp hm
  | builds hp _ u f hf ht => exact ht ▸ h.after_build hp hf
  | sends i hp => exact h.after_send hp hstep
  | samplesRear hp hm ht => exact ht ▸ h.after_reportRear hp hm
  | samplesFront hp hm ht => exact ht ▸ h.after_reportFront hp hm
  | checkReady hp ht =>
    have hpt := Phase.LeadsTo.of_checkReady (s.envTurn.pinFpgaReady = .asserted)
    rw [← hp] at hpt
    exact ht ▸ h.stay hpt rfl (h.queue.congr rfl rfl rfl rfl) h.rear h.front
      (transferOk_of_none (h.xfer_eq_none (by simp [hp])))
  | waits hp _ ht => exact ht ▸ h.envTurn_rx (by simp [hp]) (by simp [hp]) s.envTurn.rx
  | pollsEmpty hp _ ht =>
    have hs := h.envTurn_rx (Phase.ne_nSend_of_polls hp) (Phase.ne_bIdlePins_of_polls hp) s.envTurn.rx
    exact hs.after_instr (i := .reserved05) hp (.discarded ht)
  | pollsOne hp b rest _ ht =>
    have hs := h.envTurn_rx (Phase.ne_nSend_of_polls hp) (Phase.ne_bIdlePins_of_polls hp) rest
    exact hs.after_instr hp ht

/-! ### Progress -/

/-- From every state of the invariant there is a next one: sampling phases are in `MASTER` role, frame phases in `SLAVE` role,
and no instruction stops (rules R47 (e), R282). -/
theorem Inv.progress {s : State} (h : Inv s) : ∃ t, step s = .next t := by
  have hrole := h.role
  cases hp : s.phase with
  | bIdlePins => exact ⟨_, step_bIdlePins hp⟩
  | bCheckReady => exact ⟨_, (step_bCheckReady hp).trans (checkReady_eq s)⟩
  | bInit => exact ⟨_, step_bInit hp⟩
  | bFinish => exact ⟨_, step_bFinish hp⟩
  | eEnter => exact ⟨_, step_eEnter hp⟩
  | bBaseline =>
    rw [hp] at hrole
    exact ⟨_, (step_bBaseline hp).trans (if_pos hrole)⟩
  | pSampleRear =>
    rw [hp] at hrole
    exact ⟨_, (step_pSampleRear hp).trans (if_pos hrole)⟩
  | pSampleFront =>
    rw [hp] at hrole
    exact ⟨_, (step_pSampleFront hp).trans (if_pos hrole)⟩
  | nWait =>
    by_cases hb : s.envTurn.busData = 0x5A
    · exact ⟨_, step_wait_sentinel hp hb rfl⟩
    · exact ⟨_, step_wait_other hp hb⟩
  | nSend i =>
    obtain ⟨t, hstep, -⟩ := sendHoldsOrAdvances s i h hp
    exact ⟨t, hstep⟩
  | nPoll | pPollA | pPollB =>
    have hpolls : s.phase.polls = true := by rw [hp]; rfl
    cases hrx : s.envTurn.rx with
    | nil => exact ⟨_, step_polls_nil hpolls hrx⟩
    | cons b rest =>
      rw [step_polls_cons hpolls hrx]
      exact instructionsAlwaysComplete (decodeOpcode b) _

/-- Settles O9: progress and preservation, by induction on the number of steps. -/
theorem runNeverStops : Obligations.RunNeverStops := by
  intro s k
  induction k generalizing s with
  | zero => exact fun h => ⟨s, rfl, h⟩
  | succ k ih =>
    intro h
    obtain ⟨u, hstep⟩ := h.progress
    obtain ⟨t, hrun, ht⟩ := ih u (stepKeepsInv s u h hstep)
    exact ⟨t, (core_run_succ k hstep).trans hrun, ht⟩

end Sys2Proof.Machine
end

section
/-! What the FPGA and the sensors have received (rules R73, R103, R204), and the table of phases (rule R30). -/

namespace Sys2Proof.Machine

/-! ### FPGA_OUT -/

/-- A poll's instruction, with no transfer in progress, leaves FPGA_OUT alone. -/
theorem InstrOutcome.fpgaOut {i : Instr} {s t : State} (h : InstrOutcome i s t) (hx : s.xfer = none) :
    t.fpgaOut = s.fpgaOut := by
  obtain ⟨k, -, -, -, -, hout⟩ := h.turns
  rw [hout, (State.envTurns_of_no_xfer k hx).2]

/-- Outside `N_SEND(i)` a step sends the FPGA nothing (rule R204). -/
theorem Inv.step_fpgaOut {s t : State} (h : Inv s) (hp : ∀ i, s.phase ≠ .nSend i) (hstep : step s = .next t) :
    t.fpgaOut = s.fpgaOut := by
  have hx := h.xfer_eq_none hp
  have hturn : s.envTurn.fpgaOut = s.fpgaOut := (State.busAfterTurn_of_no_xfer hx).2
  have hturns : ∀ k, (s.envTurns k).fpgaOut = s.fpgaOut := fun k => (State.envTurns_of_no_xfer k hx).2
  cases step_outcome hstep with
  | idlePins _ ht => exact ht ▸ hturns 4
  | checkReady _ ht | waits _ _ ht | pollsEmpty _ _ ht => exact ht ▸ hturn
  | init _ ht =>
    rw [ht, takeMasterRole_frame]
    exact hturns 3
  | enters _ ht =>
    rw [ht, takeMasterRole_frame, State.envTurns_setReportOnly]
    exact hturns 3
  | finish _ ht =>
    have hx3 : State.xfer { s.envTurns 3 with pinAccelInit := .deasserted, busRole := .slave } = none :=
      (State.envTurns_xfer 3 s).trans hx
    rw [ht]
    exact (State.busAfterTurn_of_no_xfer hx3).2.trans (hturns 3)
  | builds _ _ u f hf ht =>
    rw [ht, (buildFrameWith_frame (h.queue.envTurns_busData 2 0x00) hf).2.2]
    exact hturns 2
  | sends i hp' => exact absurd hp' (hp i)
  | baseline hp' hm ht =>
    obtain ⟨hr, hf, -⟩ := sampleBoth_leaves hm (h.selects (by simp [hp'])).2
    rw [ht]
    dsimp only
    exact (hr.keeps.trans hf.keeps).fpgaOut
  | samplesRear hp' hm ht =>
    rw [ht]
    dsimp only
    exact (SampleLeaves.rear hm (h.selects (by simp [hp'])).2).1.keeps.fpgaOut
  | samplesFront hp' hm ht =>
    rw [ht]
    dsimp only
    exact (SampleLeaves.front hm (h.selects (by simp [hp'])).1).1.keeps.fpgaOut
  | pollsOne _ b rest _ ht => exact (ht.fpgaOut (s := { s.envTurn with rx := rest }) hx).trans hturn

/-- No poll goes on to a frame (rules R205, R249). -/
theorem afterPoll_ne_nSend {p : Phase} (hp : p.polls = true) (i : Fin 19) : p.afterPoll ≠ .nSend i := by
  cases p with
  | nPoll | pPollA | pPollB => exact fun h => nomatch h
  | _ => cases hp

/-- A frame begins at its byte 0 and with its form (rules R100, R203). -/
theorem Inv.step_begins_frame {s t : State} {i : Fin 19} (h : Inv s) (hp : ∀ i, s.phase ≠ .nSend i)
    (hstep : step s = .next t) (hpt : t.phase = .nSend i) : i = 0 ∧ ∃ c, t.frameBuf = frameOf c := by
  cases step_outcome hstep with
  | builds _ _ u f hf ht =>
    subst ht
    exact ⟨(Phase.nSend.inj hpt).symm, (buildFrameWith_frame (h.queue.envTurns_busData 2 0x00) hf).2.1⟩
  | sends j hp' => exact absurd hp' (hp j)
  | waits _ _ ht => exact absurd ((congrArg State.phase ht).symm.trans hpt) (hp i)
  | idlePins _ ht | init _ ht | baseline _ _ ht | finish _ ht | enters _ ht | samplesRear _ _ ht
  | samplesFront _ _ ht => subst ht; cases hpt
  | checkReady _ ht =>
    rw [ht] at hpt
    split at hpt <;> cases hpt
  | pollsEmpty hp' _ ht =>
    rw [ht] at hpt
    exact absurd hpt (afterPoll_ne_nSend hp' i)
  | pollsOne hp' b rest _ ht =>
    obtain he | ⟨-, -, he⟩ := ht.phase
    · exact absurd (he.symm.trans hpt) (afterPoll_ne_nSend hp' i)
    · cases he.symm.trans hpt

theorem State.sentOfFrame_eq_zero {s : State} (hp : ∀ i, s.phase ≠ .nSend i) : s.sentOfFrame = 0 := by
  unfold State.sentOfFrame
  split
  · rename_i i hi
    exact absurd hi (hp i)
  · rfl

/-- The bytes sent of a frame after one more of them. -/
theorem take_frame_succ (f : Frame) (i : Fin 19) : f.toList.take i.val ++ [f.get i] = f.toList.take (i.val + 1) := by
  rw [List.take_add_one, List.getElem?_eq_getElem (by simp)]
  rfl

/-- Settles O7: a step of `N_SEND(i)` sends byte `i` or nothing, byte 18 completes a frame, and no other step sends. -/
theorem stepKeepsWholeFrames : Obligations.StepKeepsWholeFrames := by
  rintro s t h ⟨⟨bodies, hout⟩, hform⟩ hstep
  by_cases hp : ∃ i, s.phase = .nSend i
  · obtain ⟨i, hp⟩ := hp
    obtain ⟨c, hc⟩ := hform i hp
    obtain ⟨hmoves, k, hframe⟩ := h.step_send hp hstep
    have hbuf : t.frameBuf = s.frameBuf := by rw [hframe]; exact State.envTurns_frameBuf k s
    have hsent : s.sentOfFrame = i.val := by simp [State.sentOfFrame, hp]
    rw [hsent] at hout
    refine ⟨?_, fun _ _ => ⟨c, hbuf.trans hc⟩⟩
    obtain ⟨ht, -, -, hmore⟩ | ⟨ht, -, -, hmore⟩ := hmoves
    · rw [hmore, hout, List.append_assoc, take_frame_succ]
      split at ht
      · rename_i hlast
        have hnone : t.sentOfFrame = 0 := by simp [State.sentOfFrame, ht]
        refine ⟨bodies ++ [c], ?_⟩
        rw [hnone, hlast, hc, List.take_of_length_le (by simp)]
        simp
      · rename_i hnext
        have hi : (i + 1).val = i.val + 1 := Fin.val_add_one_of_lt (by rw [Fin.lt_def]; simp; omega)
        have hone : t.sentOfFrame = i.val + 1 := by simp [State.sentOfFrame, ht, hi]
        exact ⟨bodies, by rw [hone, hbuf]⟩
    · have hsame : t.sentOfFrame = i.val := by simp [State.sentOfFrame, ht]
      exact ⟨bodies, by rw [hmore, hout, hsame, hbuf]⟩
  · have hp : ∀ i, s.phase ≠ .nSend i := not_exists.mp hp
    have hbegins := fun i => h.step_begins_frame (i := i) hp hstep
    have hsent : s.sentOfFrame = 0 := State.sentOfFrame_eq_zero hp
    have hsent' : t.sentOfFrame = 0 := by
      by_cases hpt : ∃ i, t.phase = .nSend i
      · obtain ⟨i, hpt⟩ := hpt
        simp [State.sentOfFrame, hpt, (hbegins i hpt).1]
      · exact State.sentOfFrame_eq_zero (not_exists.mp hpt)
    refine ⟨⟨bodies, ?_⟩, fun i hpt => (hbegins i hpt).2⟩
    rw [h.step_fpgaOut hp hstep, hout, hsent, hsent', List.take_zero, List.take_zero]

/-! ### The sensors' streams -/

/-- `k` whole transactions (rule R103). -/
def transactions (k : Nat) : List Byte := (List.replicate k [0x10, Config.dummyByte, Config.dummyByte]).flatten

theorem transactions_add (j k : Nat) : transactions j ++ transactions k = transactions (j + k) := by
  simp [transactions, ← List.replicate_append_replicate]

/-- A step sends each sensor whole transactions, and most steps none (rules R43, R220). -/
theorem Inv.step_transactions {s t : State} (h : Inv s) (hstep : step s = .next t) :
    ∃ j k, t.sensorOutRear = s.sensorOutRear ++ transactions j ∧
      t.sensorOutFront = s.sensorOutFront ++ transactions k := by
  have none_sent : ∀ u : State, u.sensorOutRear = s.sensorOutRear → u.sensorOutFront = s.sensorOutFront →
      ∃ j k, u.sensorOutRear = s.sensorOutRear ++ transactions j ∧
        u.sensorOutFront = s.sensorOutFront ++ transactions k :=
    fun u hr hf => ⟨0, 0, by simp [hr, transactions], by simp [hf, transactions]⟩
  cases step_outcome hstep with
  | idlePins _ ht => exact ht ▸ none_sent _ (State.envTurns_sensorOutRear 4 s) (State.envTurns_sensorOutFront 4 s)
  | checkReady _ ht | waits _ _ ht | pollsEmpty _ _ ht => exact ht ▸ none_sent _ rfl rfl
  | init _ ht | enters _ ht =>
    rw [ht, takeMasterRole_frame]
    exact none_sent _ rfl rfl
  | finish _ ht =>
    rw [ht, takeSlaveRole_frame]
    exact none_sent _ rfl rfl
  | builds _ _ u f hf ht =>
    rw [ht, (buildFrameWith_frame (h.queue.envTurns_busData 2 0x00) hf).2.2]
    exact none_sent _ (State.envTurns_sensorOutRear 2 s) (State.envTurns_sensorOutFront 2 s)
  | sends i hp =>
    obtain ⟨-, k, hframe⟩ := h.step_send hp hstep
    rw [hframe]
    exact none_sent _ (State.envTurns_sensorOutRear k s) (State.envTurns_sensorOutFront k s)
  | baseline hp hm ht =>
    obtain ⟨hr, hf, -⟩ := sampleBoth_leaves hm (h.selects (by simp [hp])).2
    have hrear : (sampleFront (sampleRear s)).sensorOutRear = s.sensorOutRear ++ transactions 17 :=
      hf.sentOther.trans hr.sent
    have hfront : (sampleFront (sampleRear s)).sensorOutFront = s.sensorOutFront ++ transactions 17 :=
      hf.sent.trans (congrArg (· ++ transactions 17) hr.sentOther)
    rw [ht]
    dsimp only
    exact ⟨17, 17, hrear, hfront⟩
  | samplesRear hp hm ht =>
    obtain ⟨hr, -⟩ := SampleLeaves.rear hm (h.selects (by simp [hp])).2
    rw [ht]
    dsimp only
    exact ⟨17, 0, hr.sent, hr.sentOther.trans (List.append_nil _).symm⟩
  | samplesFront hp hm ht =>
    obtain ⟨hf, -⟩ := SampleLeaves.front hm (h.selects (by simp [hp])).1
    rw [ht]
    dsimp only
    exact ⟨0, 17, hf.sentOther.trans (List.append_nil _).symm, hf.sent⟩
  | pollsOne _ b rest _ ht =>
    rw [ht.frame]
    exact none_sent _ rfl rfl

/-- Settles O8: whole transactions after whole transactions. -/
theorem stepKeepsWholeTransactions : Obligations.StepKeepsWholeTransactions := by
  rintro s t h ⟨⟨j, hrear⟩, k, hfront⟩ hstep
  obtain ⟨j', k', hrear', hfront'⟩ := h.step_transactions hstep
  exact ⟨⟨j + j', by rw [hrear', hrear]; exact transactions_add j j'⟩,
    k + k', by rw [hfront', hfront]; exact transactions_add k k'⟩

/-! ### The table of phases -/

/-- SWITCH is opcode 0x04 (rule R97). -/
theorem decodeOpcode_eq_switch_iff (b : Byte) : decodeOpcode b = .switchToAccelReportMode ↔ b = 0x04 := by
  revert b
  decide +kernel

/-- SWITCH outside REPORT_ONLY (rule R175). -/
theorem exec_switch_phase {s t : State} (hr : s.reportOnly = false) (h : exec .switchToAccelReportMode s = .next t) :
    t.phase = .eEnter := by
  obtain rfl := Host.Outcome.next.inj ((switchEntersReportOnly.1 s hr).symm.trans h)
  rfl

/-- Where a poll goes on to (rules R205, R249, R251). -/
theorem Inv.step_polls_phase {s t : State} {p : Phase} (h : Inv s) (hp : s.phase = p) (hpolls : p.polls = true)
    (hstep : step s = .next t) :
    t.phase = if p.inReportLoop = false ∧ s.envTurn.rx.head? = some 0x04 then .eEnter else p.afterPoll := by
  subst hp
  rw [← h.flag]
  cases hrx : s.envTurn.rx with
  | nil =>
    obtain rfl := Host.Outcome.next.inj ((step_polls_nil hpolls hrx).symm.trans hstep)
    simp
  | cons b rest =>
    rw [step_polls_cons hpolls hrx] at hstep
    by_cases hswitch : s.reportOnly = false ∧ b = 0x04
    · obtain ⟨hr, rfl⟩ := hswitch
      rw [if_pos ⟨hr, rfl⟩]
      exact exec_switch_phase (s := { s.envTurn with rx := rest }) hr hstep
    · rw [if_neg (by simpa using hswitch)]
      exact (exec_outcome hstep).phase.resolve_right fun ⟨he, hr, _⟩ =>
        hswitch ⟨hr, (decodeOpcode_eq_switch_iff b).mp he⟩

/-- The bus role that a phase begins in (rule R47 (e)). -/
theorem Inv.role_of {s : State} {p : Phase} (h : Inv s) (hp : s.phase = p) : p.roleOk s.busRole := hp ▸ h.role

/-- Settles O12: the phases one by one. -/
theorem phaseTransitions : Obligations.PhaseTransitions := by
  intro s t h hstep
  refine ⟨fun hp => ?_, fun hp => ?_, fun hp => ?_, fun hp => ?_, fun hp => ?_, fun hp => ?_, fun i hp => ?_,
    fun hp => ?_, fun hp => ?_, fun hp => ?_, fun hp => ?_, fun hp => ?_, fun hp => ?_⟩
  · obtain rfl := Host.Outcome.next.inj ((idlePinsDeasserted s hp).symm.trans hstep)
    rfl
  · obtain rfl := Host.Outcome.next.inj (((step_bCheckReady hp).trans (checkReady_eq s)).symm.trans hstep)
    rfl
  · obtain rfl := Host.Outcome.next.inj ((initTakesMasterRole s hp).symm.trans hstep)
    rfl
  · obtain ⟨u, hstep', -, -, hpu, -⟩ := baselineSamplesBoth s hp (h.role_of hp) (h.selects (by simp [hp])).1
      (h.selects (by simp [hp])).2
    obtain rfl := Host.Outcome.next.inj (hstep'.symm.trans hstep)
    exact hpu
  · obtain rfl := Host.Outcome.next.inj ((finishEntersNormal s hp).symm.trans hstep)
    rfl
  · by_cases hb : s.envTurn.busData = 0x5A
    · obtain rfl := Host.Outcome.next.inj ((step_wait_sentinel hp hb rfl).symm.trans hstep)
      exact (if_pos hb).symm
    · obtain rfl := Host.Outcome.next.inj ((step_wait_other hp hb).symm.trans hstep)
      rw [if_neg hb]
      exact hp
  · exact (h.step_send hp hstep).1.symm.imp And.left And.left
  · simpa [Phase.inReportLoop, Phase.afterPoll] using h.step_polls_phase hp rfl hstep
  · obtain rfl := Host.Outcome.next.inj ((enterSetsReportOnly s hp).symm.trans hstep)
    rfl
  · obtain ⟨u, hstep', -, -, hpu, -⟩ := reportLoopSamples.1 s hp (h.role_of hp) (h.selects (by simp [hp])).2
    obtain rfl := Host.Outcome.next.inj (hstep'.symm.trans hstep)
    exact hpu
  · simpa [Phase.inReportLoop, Phase.afterPoll] using h.step_polls_phase hp rfl hstep
  · obtain ⟨u, hstep', -, -, hpu, -⟩ := reportLoopSamples.2 s hp (h.role_of hp) (h.selects (by simp [hp])).1
    obtain rfl := Host.Outcome.next.inj (hstep'.symm.trans hstep)
    exact hpu
  · simpa [Phase.inReportLoop, Phase.afterPoll] using h.step_polls_phase hp rfl hstep

/-! ### REPORT_ONLY -/

theorem Phase.mode_of_inReportLoop {p : Phase} (h : p.inReportLoop = true) : p.mode = .reportOnly := by
  cases p with
  | pSampleRear | pPollA | pSampleFront | pPollB => rfl
  | _ => cases h

theorem Phase.roleOk_of_inReportLoop {p : Phase} {r : BusRole} (h : p.inReportLoop = true) (hr : p.roleOk r) :
    r = .master := by
  cases p with
  | pSampleRear | pPollA | pSampleFront | pPollB => exact hr
  | _ => cases h

/-- A polling phase of REPORT_ONLY is in the loop (rule R249). -/
theorem Phase.inReportLoop_of_polls {p : Phase} (hp : p.polls = true) (hm : p.mode = .reportOnly) :
    p.inReportLoop = true := by
  cases p with
  | pPollA | pPollB => rfl
  | nPoll => cases hm
  | _ => cases hp

/-- From a phase of REPORT_ONLY a step goes to one of its loop (rules R247, R249). -/
theorem Inv.step_enters_loop {s t : State} (h : Inv s) (hm : s.phase.mode = .reportOnly) (hstep : step s = .next t) :
    t.phase.inReportLoop = true := by
  obtain ⟨-, -, -, -, -, -, -, -, hEnter, hRear, hPollA, hFront, hPollB⟩ := phaseTransitions s t h hstep
  cases hp : s.phase with
  | eEnter => rw [hEnter hp]; rfl
  | pSampleRear => rw [hRear hp]; rfl
  | pPollA => rw [hPollA hp]; rfl
  | pSampleFront => rw [hFront hp]; rfl
  | pPollB => rw [hPollB hp]; rfl
  | _ => rw [hp] at hm; cases hm

/-- In REPORT_ONLY no instruction touches the defer flag (rule R161). -/
theorem InstrOutcome.defer_of_reportOnly {i : Instr} {s t : State} (h : InstrOutcome i s t) (hr : s.reportOnly = true) :
    t.defer = s.defer := by
  cases h with
  | discarded ht => rw [ht]; rfl
  | reported _ ht => rw [ht, State.respond_eq]; rfl
  | answered _ hn | cleared _ hn | switched _ hn | stepsRaised _ hn | stepsFull _ hn | stepsStored _ hn =>
    rw [hr] at hn
    cases hn

/-- In REPORT_ONLY the queue, the defer flag and the enable pin are frozen (rules R47 (c), (g), R248, R250). -/
theorem Inv.step_frozen {s t : State} (h : Inv s) (hm : s.phase.mode = .reportOnly) (hstep : step s = .next t) :
    t.head = s.head ∧ t.tail = s.tail ∧ t.count = s.count ∧ t.qmem = s.qmem ∧ t.defer = s.defer ∧
      t.pinFpgaEnable = s.pinFpgaEnable := by
  cases step_outcome hstep with
  | enters _ ht =>
    rw [ht, takeMasterRole_frame]
    exact ⟨rfl, rfl, rfl, rfl, rfl, rfl⟩
  | samplesRear hp hmaster ht =>
    obtain ⟨leaves, -⟩ := SampleLeaves.rear hmaster (h.selects (by simp [hp])).2
    have hkeeps := leaves.keeps
    rw [ht]
    dsimp only
    exact ⟨hkeeps.head, hkeeps.tail, hkeeps.count, hkeeps.qmem, hkeeps.defer, hkeeps.enable⟩
  | samplesFront hp hmaster ht =>
    obtain ⟨leaves, -⟩ := SampleLeaves.front hmaster (h.selects (by simp [hp])).1
    have hkeeps := leaves.keeps
    rw [ht]
    dsimp only
    exact ⟨hkeeps.head, hkeeps.tail, hkeeps.count, hkeeps.qmem, hkeeps.defer, hkeeps.enable⟩
  | pollsEmpty _ _ ht =>
    rw [ht]
    exact ⟨rfl, rfl, rfl, rfl, rfl, rfl⟩
  | pollsOne hp b rest _ ht =>
    have hr : s.reportOnly = true := h.flag.trans (Phase.inReportLoop_of_polls hp hm)
    have hdefer := ht.defer_of_reportOnly (s := { s.envTurn with rx := rest }) hr
    have hhead : t.head = s.head := by rw [ht.frame]; rfl
    have henable : t.pinFpgaEnable = s.pinFpgaEnable := by rw [ht.frame]; rfl
    obtain ⟨hq, htail, hcount⟩ | ⟨-, hn, -⟩ := ht.queue
    · exact ⟨hhead, htail, hcount, hq, hdefer, henable⟩
    · cases hr.symm.trans hn
  | idlePins hp | checkReady hp | init hp | baseline hp | finish hp | waits hp | builds hp | sends _ hp =>
    rw [hp] at hm
    cases hm

/-- Settles O13: the step goes on in the loop, where the invariant gives role and flag, and the rest is frozen. -/
theorem reportOnlyIsTerminal : Obligations.ReportOnlyIsTerminal := by
  intro s t h hm hstep
  have hloop := h.step_enters_loop hm hstep
  have ht := stepKeepsInv s t h hstep
  have hsend : ∀ i, s.phase ≠ .nSend i := fun i hi => by
    rw [hi] at hm
    cases hm
  obtain ⟨hhead, htail, hcount, hq, hdefer, henable⟩ := h.step_frozen hm hstep
  exact ⟨Phase.mode_of_inReportLoop hloop, Phase.roleOk_of_inReportLoop hloop ht.role, ht.flag.trans hloop, hhead,
    htail, hcount, fun a => by rw [hq], hdefer, h.step_fpgaOut hsend hstep, henable⟩

end Sys2Proof.Machine
end
